-- ==== Sys2Proof/Word.lean ====
section
/-! DEFINITION. The word type of the block: the byte. Every packet, every matrix row and every transaction is made of
bytes, bit 0 the least significant (R6). -/

namespace Sys2Proof

/-- Eight bits, bit 0 of weight 1 (R6). -/
abbrev Byte := BitVec 8

end Sys2Proof
end

