-- ==== Sys2Proof/Config.lean ====
section
/-! DEFINITION. The parameters of an instance of the block (R5, R24), the constants the source fixes (R4), the register
set of the platform device (R196), and the free values: opaque constants, which nothing in Lean can evaluate. -/

namespace Sys2Proof

/-- The parameters the source leaves open (R5), fixed when the block is instantiated and changed by no command (R24).
RPMW, CNTB and RPMB follow from `cntw`. -/
structure Config where
  /-- CNTW, the width in bits of each pulse counter. -/
  cntw : Nat
  /-- PERIOD, the duty full-scale input maps to; its 32 bits are the bound PERIOD < 2^32. -/
  period : BitVec 32
  /-- FONT, the digit patterns; bit s of a pattern is segment index s (R133). -/
  font : Vector (BitVec 7) 10
  /-- BLANK, the pattern for values from 10 on. -/
  blank : BitVec 7
  /-- BUS_ADDR, the address of every bus transaction (R49). -/
  busAddr : Nat
  deriving DecidableEq, Repr

/-- The legal values of the parameters (R5): CNTW at least 1, and the two font entries the source fixes (R134). -/
abbrev Config.wf (c : Config) : Prop :=
  1 ≤ c.cntw ∧ c.font[8] = 0x7F#7 ∧ c.font[1] = 0x06#7

/-- RPMW = CNTW + 5 (R5, R105). -/
def Config.rpmw (c : Config) : Nat := c.cntw + 5

/-- CNTB = ceil(CNTW/8), the bytes that carry a count (R5). -/
def Config.cntb (c : Config) : Nat := (c.cntw + 7) / 8

/-- RPMB = ceil(RPMW/8), the bytes that carry an RPM (R5). -/
def Config.rpmb (c : Config) : Nat := (c.rpmw + 7) / 8

/-- FREE VALUE. BUS_ADDR has no default (R5, R49); log entry 2. -/
opaque Config.openBusAddr : Nat

/-- The parameters at the defaults of R5: CNTW 32, PERIOD 40000, the font of R134, BLANK 0. BUS_ADDR has no default. -/
def Config.standard : Config where
  cntw := 32
  period := 40000#32
  font := #v[0x3F#7, 0x06#7, 0x5B#7, 0x4F#7, 0x66#7, 0x6D#7, 0x7D#7, 0x07#7, 0x7F#7, 0x6F#7]
  blank := 0#7
  busAddr := Config.openBusAddr

/-- The registers of the display driver chip, as the reference model gives them (R196); log entry 13. -/
structure Chip where
  /-- Oscillator enabled. -/
  osc : Bool
  /-- Display enabled. -/
  on : Bool
  /-- Brightness step. -/
  bright : BitVec 4
  /-- Display RAM, one byte per row. -/
  ram : Vector Byte 16
  deriving DecidableEq, Repr, Inhabited

/-- FREE VALUE. The chip's brightness at power-on is unknown (R196, U3); log entry 14. -/
opaque Config.chipBrightAtPowerOn : BitVec 4

/-- FREE VALUE. The chip's RAM at power-on is unknown (R196, U3); log entry 14. -/
opaque Config.chipRamAtPowerOn : Nat → Byte

/-- FREE VALUE. What the chip does on a transaction the block never sends ("no meaning given", R196); log entry 15. -/
opaque Config.chipOnOtherTransaction : List Byte → Chip → Chip

end Sys2Proof
end

