-- ==== Sys2Proof/Syntax.lean ====
section
/-! DEFINITION. The eleven command packets of the opcode table (R9, R73), the two fans, the packet formats (R71) and the
three ways in which a packet is refused (R81). -/

namespace Sys2Proof

/-- The two fans; `front` is index 0, `rear` index 1 (R4, R21). -/
inductive Fan where
  | front
  | rear
  deriving DecidableEq, Repr

/-- One constructor per row of the opcode table (R73). Operands are the bytes the packet carries, at their full width
(R72); the reserved values of `f` and `dot` (R78) are the ill-formed terms of WellFormed.lean. -/
inductive Instr where
  /-- `RDRST f`, 0x10: read and reset one counter (R102). -/
  | rdrst (f : Byte)
  /-- `RPM f`, 0x11: read, reset and scale one counter (R103). -/
  | rpm (f : Byte)
  /-- `RPMS`, 0x12: read, reset and scale both counters (R104). -/
  | rpms
  /-- `MAP raw`, 0x20: analog reading to duty, to both PWM channels (R120). -/
  | map (raw : BitVec 16)
  /-- `CLRALL`, 0x30: clear the whole matrix (R130). -/
  | clrall
  /-- `CLRDSP d`, 0x31: clear one display (R131). -/
  | clrdsp (d : Byte)
  /-- `SETDIG d, p, v, dot`, 0x32: write one digit slot (R132). -/
  | setdig (d p v dot : Byte)
  /-- `WRSTR d, text`, 0x33: clear a display and fill its slots from a text of any length (R137, R79). -/
  | wrstr (d : Byte) (text : List Byte)
  /-- `DISPLAY`, 0x34: transmit the matrix (R160). -/
  | display
  /-- `SETBRT level`, 0x35: send a brightness command (R161). -/
  | setbrt (level : Byte)
  /-- `CONFIG`, 0x36: start the driver chip (R162). -/
  | config
  deriving DecidableEq, Repr

/-- The eleven defined opcodes (R73). -/
inductive Opcode where
  | rdrst | rpm | rpms | map | clrall | clrdsp | setdig | wrstr | display | setbrt | config
  deriving DecidableEq, Repr

/-- The five packet formats (R71). -/
inductive Format where
  | f0 | f1 | f2 | f4 | fs
  deriving DecidableEq, Repr

/-- Why the decoder refuses a packet (R76, R81). Each is answered by its status byte and has no other effect (R180). -/
inductive PacketError where
  /-- `c[0]` is not a defined opcode (R77). -/
  | errOpcode
  /-- The packet is empty or its length does not fit its format (R76). -/
  | errLength
  /-- A reserved operand value (R78). -/
  | errOperand
  deriving DecidableEq, Repr

end Sys2Proof
end

