-- ==== Sys2Proof/Machine/State.lean ====
section
/-! DEFINITION. The state of the model: the block's own state (R20), the parameters it was instantiated with (R24), the
platform device (R196), and the model's own bookkeeping of what the environment will do and what was emitted. -/

namespace Sys2Proof.Machine

/-- The display matrix: sixteen row bytes M[0] .. M[15] (R22). It takes the place of a register file (R7); the block has
no memory. -/
abbrev Matrix := Vector Byte 16

/-- One output action (R7, R30): what an observer sees. -/
inductive Output where
  /-- One bus transaction, the bytes sent first element first (R45). -/
  | busTx (addr : Nat) (bytes : List Byte)
  /-- One PWM sink call on channel 0 or 1 (R46). -/
  | pwmSet (ch : Fin 2) (duty : BitVec 32)
  /-- One response packet: the status byte and the payload (R43, R80). -/
  | response (packet : List Byte)
  deriving DecidableEq, Repr

/-- The transmitter's result for one transaction, which the block never looks at (R165). A failed transaction leaves the
chip in any state, here named by the environment (R196, U2). -/
inductive BusResult where
  | ok
  | failed (left : Chip)
  deriving DecidableEq, Repr

/-- A command in progress when reset came: its packet, and how many of its output actions were already emitted (R211). -/
structure Abandoned where
  packet : List Byte
  sent : Nat
  deriving DecidableEq, Repr

/-- What an agent outside the block does next (R40). -/
inductive Event where
  /-- One detected falling edge of fan `f` (R44). -/
  | pulse (f : Fan)
  /-- The host sends one command packet (R42). -/
  | packet (bytes : List Byte)
  /-- `rst` is asserted and released (R211): a command in progress, if any, is abandoned, and the pulses `lost` that
  arrive meanwhile are not counted. -/
  | reset (abandoned : Option Abandoned) (lost : List Fan)
  deriving DecidableEq, Repr

/-- The state. The block's own are `cnt0`, `cnt1` and `matrix` (R20). -/
structure State where
  /-- The instance's parameters (R24): constants, written by no step. -/
  cfg : Config
  /-- CNT[0], the front fan's counter (R21), below 2^CNTW. -/
  cnt0 : Nat
  /-- CNT[1], the rear fan's counter (R21), below 2^CNTW. -/
  cnt1 : Nat
  /-- M[0] .. M[15] (R22). -/
  matrix : Matrix
  /-- The display driver chip (R196). -/
  chip : Chip
  /-- The model's own: the transmitter's results to come, one per transaction; past the end every one is `ok`. -/
  busResults : List BusResult
  /-- The model's own: the events to come, next first (R58). -/
  inputs : List Event
  /-- The model's own: the output sequence, oldest first (R60). -/
  outputs : List Output
  deriving DecidableEq, Repr

/-- Why the machine stops. Nothing stops it: every packet gets a response and a pulse is always accepted (R221), and an
erroneous packet is answered by an error status (R180). No constructor; log entry 20. -/
inductive Fault where
  deriving DecidableEq, Repr

/-- Why an instruction has no meaning. -/
inductive Refusal where
  /-- Raised by an arm of `exec` for an instruction not modelled yet (safe: nothing is claimed of it). No arm raises it:
  all eleven commands have their meaning. -/
  | notModelled (mnemonic : String)
  deriving DecidableEq, Repr

/-- The matrix after reset (R32). -/
def zeroMatrix : Matrix := Vector.replicate 16 0x00#8

/-- The chip at power-on (R196): oscillator and display off, brightness and RAM unknown. -/
def chipAtPowerOn : Chip where
  osc := false
  on := false
  bright := Config.chipBrightAtPowerOn
  ram := Vector.ofFn fun k => Config.chipRamAtPowerOn k.val

/-- The state right after reset (R31, R32, R33, R210), of an instance with the default parameters, together with the
power-on of the chip; nothing is scheduled and nothing has been emitted. -/
def State.reset : State where
  cfg := Config.standard
  cnt0 := 0
  cnt1 := 0
  matrix := zeroMatrix
  chip := chipAtPowerOn
  busResults := []
  inputs := []
  outputs := []

end Sys2Proof.Machine
end

