-- ==== Sys2Proof/Machine/Chip.lean ====
section
/-! DEFINITION. The display driver chip, after the informative reference model (R196), and what it shows. -/

namespace Sys2Proof.Machine

/-- `ChipRx(b)` (R196): the chip on receiving one transaction. -/
def chipRx (b : List Byte) (c : Chip) : Chip :=
  if b = [0x21#8] then { c with osc := true }
  else if b = [0x81#8] then { c with on := true }
  else
    match b with
    | [] => Config.chipOnOtherTransaction b c
    | op :: rows =>
      if rows = [] ∧ op.extractLsb' 4 4 = 0xE#4 then { c with bright := op.extractLsb' 0 4 }
      else if op = 0x00#8 ∧ rows.length = 16 then
        { c with ram := Vector.ofFn fun k => rows.getD k.val 0x00#8 }
      else Config.chipOnOtherTransaction b c

/-- The chip after a transaction whose result is `r`: a failed one leaves any state, the one the environment names
(R196, U2); with no result listed the transaction succeeds (log entry 12). -/
def chipAfter (r : Option BusResult) (b : List Byte) (c : Chip) : Chip :=
  match r with
  | some (.failed left) => left
  | some .ok => chipRx b c
  | none => chipRx b c

/-- Segment `s` of slot `p` on display `d` is driven (R196). -/
def litSegment (c : Chip) (d s p : Nat) : Bool :=
  c.osc && c.on && (c.ram[8 * d + s]?.getD 0x00#8).getLsbD p

end Sys2Proof.Machine
end

