-- ==== Sys2Proof/Machine/Flags.lean ====
section
/-! DEFINITION. The block has no flags, no condition codes and no sticky status bits (R27): "flags: none" holds for every
command. What a command or a refused packet reports is the status byte of its one response (R81). -/

namespace Sys2Proof.Machine

/-- Status OK (R81). -/
def statusOk : Byte := 0x00#8

/-- The status byte of a refused packet (R81). -/
def errorStatus : PacketError → Byte
  | .errOpcode => 0x01#8
  | .errLength => 0x02#8
  | .errOperand => 0x03#8

end Sys2Proof.Machine
end

