-- ==== Sys2Proof/Machine/Operands.lean ====
section
/-! DEFINITION. Every operand form of the commands (R71 to R75), the byte order of multi-byte fields (R50), and the bits
of a byte (R6). -/

namespace Sys2Proof.Machine

/-- The counter a fan operand selects (R74): 0x00 front, 0x01 rear; the other values are reserved (R78). -/
def fanOf (f : Byte) : Option Fan :=
  if f = 0x00#8 then some .front else if f = 0x01#8 then some .rear else none

/-- The `dot` operand (R71): 0x00 false, 0x01 true; the other values are reserved (R78). -/
def dotOf (t : Byte) : Option Bool :=
  if t = 0x00#8 then some false else if t = 0x01#8 then some true else none

/-- The level after the clamp, a saturation and not a mask (R161). -/
def clampLevel (level : Byte) : BitVec 4 := BitVec.ofNat 4 (min level.toNat 15)

/-- The pattern of a value (R132 step 2, R134): FONT[v] below 10, BLANK from 10 on. -/
def patternOf (cfg : Config) (v : Byte) : BitVec 7 :=
  if h : v.toNat < 10 then cfg.font[v.toNat] else cfg.blank

/-- An ASCII digit '0' to '9' (R87, R138). -/
def isDigitByte (c : Byte) : Bool := decide (0x30 ≤ c.toNat ∧ c.toNat ≤ 0x39)

/-- The ASCII '.' (R87). -/
def dotByte : Byte := 0x2E#8

/-- The value of a digit byte (R137). -/
def digitValue (c : Byte) : Byte := c - 0x30#8

/-- `v` zero-extended to `n` bytes, the most significant byte first (R50). -/
def beBytes : Nat → Nat → List Byte
  | 0, _ => []
  | n + 1, v => beBytes n (v / 256) ++ [BitVec.ofNat 8 v]

/-- Byte `x` with bit `p` at `b` and its other bits as they were (R7, `M[r][p] <- b`). -/
def setBitTo (p : Nat) (b : Bool) (x : Byte) : Byte :=
  if b then x ||| (1#8 <<< p) else x &&& ~~~(1#8 <<< p)

end Sys2Proof.Machine
end

