-- ==== Sys2Proof/Machine/Ops.lean ====
section
/-! DEFINITION. The named operations every command is made of: the pseudocode primitives of R7 over the counters, the
matrix and the outputs, the exchange (R54), the response (R80), and the answer to a refused packet (R180), which stands in
the place of taking an exception (R190). -/

namespace Sys2Proof.Machine

/-- `CNT[f]` (R7, R21). -/
def getCnt (f : Fan) (s : State) : Nat :=
  match f with
  | .front => s.cnt0
  | .rear => s.cnt1

/-- `CNT[f] <- v` (R7, R21). -/
def setCnt (f : Fan) (v : Nat) (s : State) : State :=
  match f with
  | .front => { s with cnt0 := v }
  | .rear => { s with cnt1 := v }

/-- `M <- m`, all sixteen rows at once (R29). -/
def setMatrix (m : Matrix) (s : State) : State := { s with matrix := m }

/-- The schedule moves on: `rest` is what is still to come. -/
def setInputs (rest : List Event) (s : State) : State := { s with inputs := rest }

/-- `M[r]` (R7). Row addresses outside 0 to 15 are never formed (R47). -/
def readRow (m : Matrix) (r : Nat) : Byte := m[r]?.getD 0x00#8

/-- `M[r] <- v` (R7). -/
def writeRow (r : Nat) (v : Byte) (m : Matrix) : Matrix := m.setIfInBounds r v

/-- `M[r][p]` (R6, R7). -/
def readBit (m : Matrix) (r p : Nat) : Bool := (readRow m r).getLsbD p

/-- `M[r][p] <- b`, the other seven bits of M[r] unchanged (R7). -/
def writeBit (r p : Nat) (b : Bool) (m : Matrix) : Matrix := writeRow r (setBitTo p b (readRow m r)) m

/-- The sixteen rows in order, M[0] first (R48, R51). -/
def matrixBytes (m : Matrix) : List Byte := (List.range 16).map (readRow m)

/-- `emit` and `respond` (R7): the action joins the output sequence. A bus transaction also reaches the chip, and uses up
the transmitter's next result, which changes nothing of the block (R165). -/
def emit (o : Output) (s : State) : State :=
  match o with
  | .busTx _ bytes =>
    { s with
      outputs := s.outputs ++ [o]
      chip := chipAfter s.busResults.head? bytes s.chip
      busResults := s.busResults.tail }
  | .pwmSet _ _ => { s with outputs := s.outputs ++ [o] }
  | .response _ => { s with outputs := s.outputs ++ [o] }

/-- Output actions in the order written (R60). -/
def emitAll (os : List Output) (s : State) : State := os.foldl (fun s o => emit o s) s

/-- `respond(OK, payload)` (R80): the one response of a command, its last action (R43). -/
def respondOk (payload : List Byte) (s : State) : State := emit (.response (statusOk :: payload)) s

/-- The exchange (R54): the whole value of CNT[f], and CNT[f] at zero, in one indivisible step. -/
def exchange (f : Fan) (s : State) : Nat × State := (getCnt f s, setCnt f 0 s)

/-- What stands in the place of taking an exception (R180, R190): the error status is sent, alone (R80), and nothing else
happens. There is no return from it (R191): the block is ready for the next packet. -/
def takeError (e : PacketError) (s : State) : State := emit (.response [errorStatus e]) s

end Sys2Proof.Machine
end

