-- ==== Sys2Proof/Machine/Bus.lean ====
section
/-! DEFINITION. The commands that transmit: DISPLAY, SETBRT and CONFIG (`43_bus.md`), and the four transactions the block
ever sends (R163). -/

namespace Sys2Proof.Machine

/-- The buffer write (R160, R163): 0x00, then the sixteen rows verbatim. -/
def bufferWrite (m : Matrix) : List Byte := 0x00#8 :: matrixBytes m

/-- The brightness command (R161, R163): 0xE0 OR the clamped level. -/
def brightnessCommand (level : Byte) : List Byte := [0xE0#8 ||| (clampLevel level).setWidth 8]

/-- The transaction of `DISPLAY` (R160). -/
def displayActions (s : State) : List Output := [.busTx s.cfg.busAddr (bufferWrite s.matrix)]

/-- The transaction of `SETBRT level` (R161). -/
def setbrtActions (level : Byte) (s : State) : List Output :=
  [.busTx s.cfg.busAddr (brightnessCommand level)]

/-- The three transactions of `CONFIG` (R162): oscillator enable, display enable, brightness 15. -/
def configActions (s : State) : List Output :=
  [.busTx s.cfg.busAddr [0x21#8], .busTx s.cfg.busAddr [0x81#8],
    .busTx s.cfg.busAddr (brightnessCommand 15#8)]

/-- `DISPLAY` (R160). -/
def execDisplay (s : State) : Host.Outcome State Fault Refusal :=
  .next (respondOk [] (emitAll (displayActions s) s))

/-- `SETBRT level` (R161); the level is not stored (R28). -/
def execSetbrt (level : Byte) (s : State) : Host.Outcome State Fault Refusal :=
  .next (respondOk [] (emitAll (setbrtActions level s) s))

/-- `CONFIG` (R162). -/
def execConfig (s : State) : Host.Outcome State Fault Refusal :=
  .next (respondOk [] (emitAll (configActions s) s))

end Sys2Proof.Machine
end

