-- ==== Sys2Proof/Machine/Duty.lean ====
section
/-! DEFINITION. The duty unit: the curve and the command MAP (`41_duty.md`). -/

namespace Sys2Proof.Machine

/-- The curve (R121): below DEADZONE = 2000 zero, else the whole product r * r * PERIOD divided once, truncating, by
65535 * 65535. -/
def curve (period : BitVec 32) (raw : BitVec 16) : BitVec 32 :=
  let r := if raw.toNat < 2000 then 0 else raw.toNat
  BitVec.ofNat 32 (r * r * period.toNat / 4294836225)

/-- The sink calls of `MAP raw`, channel 0 first (R120). -/
def mapActions (raw : BitVec 16) (s : State) : List Output :=
  [.pwmSet 0 (curve s.cfg.period raw), .pwmSet 1 (curve s.cfg.period raw)]

/-- `MAP raw` (R120). -/
def execMap (raw : BitVec 16) (s : State) : Host.Outcome State Fault Refusal :=
  .next (respondOk (beBytes 4 (curve s.cfg.period raw).toNat) (emitAll (mapActions raw s) s))

end Sys2Proof.Machine
end

