-- ==== Sys2Proof/Machine/Matrix.lean ====
section
/-! DEFINITION. The matrix unit: the commands CLRALL, CLRDSP, SETDIG and WRSTR (`42_matrix.md`). None of them transmits
(R164). -/

namespace Sys2Proof.Machine

/-- The state change of `CLRALL` (R130): for r in 0..15, M[r] <- 0x00. -/
def clearAll (m : Matrix) : Matrix := (List.range 16).foldl (fun m r => writeRow r 0x00#8 m) m

/-- The state change of `CLRDSP d` (R131): the eight rows of display d zero; nothing for d >= 2. -/
def clearDisplay (d : Nat) (m : Matrix) : Matrix :=
  if d ≤ 1 then (List.range 8).foldl (fun m s => writeRow (8 * d + s) 0x00#8 m) m else m

/-- Step 4 of `SETDIG` (R132): the column cleared in all eight rows from `ro`. -/
def clearColumn (ro p : Nat) (m : Matrix) : Matrix :=
  (List.range 8).foldl (fun m s => writeBit (ro + s) p false m) m

/-- Step 5 of `SETDIG` (R132): the segments of the pattern set. -/
def drawPattern (ro p : Nat) (pat : BitVec 7) (m : Matrix) : Matrix :=
  (List.range 7).foldl (fun m s => if pat.getLsbD s then writeBit (ro + s) p true m else m) m

/-- The state change of `SETDIG d, p, v, dot` (R132), its six steps in their order. -/
def setDigit (cfg : Config) (d p : Nat) (v : Byte) (dot : Bool) (m : Matrix) : Matrix :=
  if d > 1 ∨ p > 7 then m
  else
    let pat := patternOf cfg v
    let ro := 8 * d
    let cleared := clearColumn ro p m
    let drawn := drawPattern ro p pat cleared
    if dot then writeBit (ro + 7) p true drawn else drawn

/-- The scan of `WRSTR` (R137) from the next free slot on: a digit fills the slot, with the '.' that immediately follows
it; every other byte is skipped (R138); the scan ends at eight slots (R140) or at the end of the text, where no look-ahead
is left to do (R139). -/
def writeText (cfg : Config) (d : Nat) : Nat → List Byte → Matrix → Matrix
  | _, [], m => m
  | slot, [c], m =>
    if slot < 8 ∧ isDigitByte c then setDigit cfg d slot (digitValue c) false m else m
  | slot, c :: c' :: rest, m =>
    if slot < 8 then
      if isDigitByte c then
        if c' = dotByte then
          writeText cfg d (slot + 1) rest (setDigit cfg d slot (digitValue c) true m)
        else
          writeText cfg d (slot + 1) (c' :: rest) (setDigit cfg d slot (digitValue c) false m)
      else writeText cfg d slot (c' :: rest) m
    else m

/-- The state change of `WRSTR d, text` (R137). -/
def writeString (cfg : Config) (d : Nat) (text : List Byte) (m : Matrix) : Matrix :=
  writeText cfg d 0 text (clearDisplay d m)

/-- `CLRALL` (R130). -/
def execClrall (s : State) : Host.Outcome State Fault Refusal :=
  .next (respondOk [] (setMatrix (clearAll s.matrix) s))

/-- `CLRDSP d` (R131). -/
def execClrdsp (d : Byte) (s : State) : Host.Outcome State Fault Refusal :=
  .next (respondOk [] (setMatrix (clearDisplay d.toNat s.matrix) s))

/-- `SETDIG d, p, v, dot` (R132); a reserved `dot` is answered ERR_OPERAND and has no effect (R78). -/
def execSetdig (d p v dot : Byte) (s : State) : Host.Outcome State Fault Refusal :=
  match dotOf dot with
  | some lit => .next (respondOk [] (setMatrix (setDigit s.cfg d.toNat p.toNat v lit s.matrix) s))
  | none => .next (takeError .errOperand s)

/-- `WRSTR d, text` (R137). -/
def execWrstr (d : Byte) (text : List Byte) (s : State) : Host.Outcome State Fault Refusal :=
  .next (respondOk [] (setMatrix (writeString s.cfg d.toNat text s.matrix) s))

end Sys2Proof.Machine
end

