-- ==== Sys2Proof/Machine/Tach.lean ====
section
/-! DEFINITION. The tach unit: the pulse event, the scaling law and the commands RDRST, RPM and RPMS (`40_tach.md`). -/

namespace Sys2Proof.Machine

/-- `Pulse(f)` (R100): the counter counts up modulo 2^CNTW, silently (R101). -/
def pulse (f : Fan) (s : State) : State := setCnt f ((getCnt f s + 1) % 2 ^ s.cfg.cntw) s

/-- `scale(p) = (p / 2) * 60`, the division first (R105). -/
def scale (p : Nat) : Nat := p / 2 * 60

/-- `RDRST f` (R102); a reserved `f` is answered ERR_OPERAND and has no effect (R78). -/
def execRdrst (f : Byte) (s : State) : Host.Outcome State Fault Refusal :=
  match fanOf f with
  | some fan =>
    let (pulses, s') := exchange fan s
    .next (respondOk (beBytes s.cfg.cntb pulses) s')
  | none => .next (takeError .errOperand s)

/-- `RPM f` (R103); a reserved `f` is answered ERR_OPERAND and has no effect (R78). -/
def execRpm (f : Byte) (s : State) : Host.Outcome State Fault Refusal :=
  match fanOf f with
  | some fan =>
    let (pulses, s') := exchange fan s
    .next (respondOk (beBytes s.cfg.rpmb (scale pulses)) s')
  | none => .next (takeError .errOperand s)

/-- `RPMS` (R104): both counters exchanged at one instant, the front RPM first in the response. -/
def execRpms (s : State) : Host.Outcome State Fault Refusal :=
  let (p0, s0) := exchange .front s
  let (p1, s1) := exchange .rear s0
  .next (respondOk (beBytes s.cfg.rpmb (scale p0) ++ beBytes s.cfg.rpmb (scale p1)) s1)

end Sys2Proof.Machine
end

