-- ==== Sys2Proof/Machine/Dispatch.lean ====
section
/-! DEFINITION. The meaning of each command, one arm per constructor of `Instr`. -/

namespace Sys2Proof.Machine

def exec (i : Instr) (s : State) : Host.Outcome State Fault Refusal :=
  match i with
  | .rdrst f => Sys2Proof.Machine.execRdrst f s
  | .rpm f => Sys2Proof.Machine.execRpm f s
  | .rpms => Sys2Proof.Machine.execRpms s
  | .map raw => Sys2Proof.Machine.execMap raw s
  | .clrall => Sys2Proof.Machine.execClrall s
  | .clrdsp d => Sys2Proof.Machine.execClrdsp d s
  | .setdig d p v dot => Sys2Proof.Machine.execSetdig d p v dot s
  | .wrstr d text => Sys2Proof.Machine.execWrstr d text s
  | .display => Sys2Proof.Machine.execDisplay s
  | .setbrt level => Sys2Proof.Machine.execSetbrt level s
  | .config => Sys2Proof.Machine.execConfig s

end Sys2Proof.Machine
end

