-- ==== Sys2Proof/WellFormed.lean ====
section
/-! DEFINITION. Which instructions are well formed: the two operand checks of the decoder (R76, R78). All other operand
values are legal (R75, R182). -/

namespace Sys2Proof

/-- A fan operand names one of the two fans (R74). -/
def legalFan (f : Byte) : Bool := decide (f.toNat < 2)

/-- A dot operand is 0x00 or 0x01 (R71, R78). -/
def legalDot (t : Byte) : Bool := decide (t.toNat < 2)

/-- The instruction has no reserved operand value (R78). -/
def wellFormed : Instr → Bool
  | .rdrst f => legalFan f
  | .rpm f => legalFan f
  | .rpms => true
  | .map _ => true
  | .clrall => true
  | .clrdsp _ => true
  | .setdig _ _ _ dot => legalDot dot
  | .wrstr _ _ => true
  | .display => true
  | .setbrt _ => true
  | .config => true

end Sys2Proof
end

