-- ==== Sys2Proof/Decode.lean ====
section
/-! DEFINITION. The decoder, total on every byte list (R76), and after it the encoder, both written from the opcode map
(R73) and the formats (R71, R72). A packet's length is known from its framing, never from its contents (R70). -/

namespace Sys2Proof

/-- The opcode byte of each command (R73). -/
def opcodeByte : Opcode → Byte
  | .rdrst => 0x10#8
  | .rpm => 0x11#8
  | .rpms => 0x12#8
  | .map => 0x20#8
  | .clrall => 0x30#8
  | .clrdsp => 0x31#8
  | .setdig => 0x32#8
  | .wrstr => 0x33#8
  | .display => 0x34#8
  | .setbrt => 0x35#8
  | .config => 0x36#8

/-- The format of each command (R73). -/
def opcodeFormat : Opcode → Format
  | .rdrst => .f1
  | .rpm => .f1
  | .rpms => .f0
  | .map => .f2
  | .clrall => .f0
  | .clrdsp => .f1
  | .setdig => .f4
  | .wrstr => .fs
  | .display => .f0
  | .setbrt => .f1
  | .config => .f0

/-- The rows of the opcode map, in its order (R73). -/
def allOpcodes : List Opcode :=
  [.rdrst, .rpm, .rpms, .map, .clrall, .clrdsp, .setdig, .wrstr, .display, .setbrt, .config]

/-- The defined opcode a byte stands for; every other byte is reserved (R77). -/
def opcodeOf (b : Byte) : Option Opcode :=
  allOpcodes.find? fun o => opcodeByte o == b

/-- The length of a packet of this format, for FS the least length (R71). -/
def formatLength : Format → Nat
  | .f0 => 1
  | .f1 => 2
  | .f2 => 3
  | .f4 => 5
  | .fs => 2

/-- `n` bytes fit the format (R76): FS takes any length from 2 on (R79), the others exactly one length. -/
def formatFits (fmt : Format) (n : Nat) : Bool :=
  match fmt with
  | .fs => decide (2 ≤ n)
  | .f0 | .f1 | .f2 | .f4 => decide (n = formatLength fmt)

/-- Format F0: no operand (R71). -/
def operandsF0 (i : Instr) : List Byte → Option Instr
  | [] => some i
  | _ :: _ => none

/-- Format F1: one byte operand (R71). -/
def operandsF1 (make : Byte → Instr) : List Byte → Option Instr
  | [a] => some (make a)
  | _ => none

/-- Format F2: one 16-bit operand, `c[1] ++ c[2]` (R71, R72). -/
def operandsF2 (make : BitVec 16 → Instr) : List Byte → Option Instr
  | [hi, lo] => some (make (hi ++ lo))
  | _ => none

/-- Format F4: display, position, value and dot (R71). -/
def operandsF4 (make : Byte → Byte → Byte → Byte → Instr) : List Byte → Option Instr
  | [d, p, v, t] => some (make d p v t)
  | _ => none

/-- Format FS: a display and a text of any length (R71, R79). -/
def operandsFS (make : Byte → List Byte → Instr) : List Byte → Option Instr
  | [] => none
  | d :: text => some (make d text)

/-- The operands laid out by the opcode's format (R73); `none` when their number does not fit it. -/
def assemble (o : Opcode) (operands : List Byte) : Option Instr :=
  match o with
  | .rdrst => operandsF1 .rdrst operands
  | .rpm => operandsF1 .rpm operands
  | .rpms => operandsF0 .rpms operands
  | .map => operandsF2 .map operands
  | .clrall => operandsF0 .clrall operands
  | .clrdsp => operandsF1 .clrdsp operands
  | .setdig => operandsF4 .setdig operands
  | .wrstr => operandsFS .wrstr operands
  | .display => operandsF0 .display operands
  | .setbrt => operandsF1 .setbrt operands
  | .config => operandsF0 .config operands

/-- The decoder's checks in the order of R76: empty packet, opcode, length, operand. -/
def decode : List Byte → Except PacketError Instr
  | [] => .error .errLength
  | op :: operands =>
    match opcodeOf op with
    | none => .error .errOpcode
    | some o =>
      match assemble o operands with
      | none => .error .errLength
      | some i => if wellFormed i then .ok i else .error .errOperand

/-- The packet of an instruction (R71, R73). -/
def encode : Instr → List Byte
  | .rdrst f => [0x10#8, f]
  | .rpm f => [0x11#8, f]
  | .rpms => [0x12#8]
  | .map raw => [0x20#8, raw.extractLsb' 8 8, raw.extractLsb' 0 8]
  | .clrall => [0x30#8]
  | .clrdsp d => [0x31#8, d]
  | .setdig d p v dot => [0x32#8, d, p, v, dot]
  | .wrstr d text => 0x33#8 :: d :: text
  | .display => [0x34#8]
  | .setbrt level => [0x35#8, level]
  | .config => [0x36#8]

/-- The first `n` bytes of a number whose low byte is the first byte: the numbering of the opcode table. -/
def wordBytes (n w : Nat) : List Byte :=
  (List.range n).map fun k => BitVec.ofNat 8 (w >>> (8 * k))

/-- The packet an opcode-table word stands for: the bytes the table gives bits to, and after them zero bytes up to the
length of the opcode's format (a text is empty). A packet has its length from its framing (R70), so the length is
part of what this choice fixes; see the assumption log, entry 22. -/
def tablePacket (nbits w : Nat) : List Byte :=
  let c := wordBytes ((nbits + 7) / 8) w
  match c with
  | [] => []
  | op :: _ =>
    match opcodeOf op with
    | none => c
    | some o => c ++ List.replicate (formatLength (opcodeFormat o) - c.length) 0x00#8

/-- What the decoder reads from an opcode-table word; `none` where it refuses the packet. -/
def decodeTableWord (nbits w : Nat) : Option Instr :=
  match decode (tablePacket nbits w) with
  | .ok i => some i
  | .error _ => none

end Sys2Proof
end

