-- ==== Sys2Proof/Machine/Reset.lean ====
section
/-! DEFINITION. The reset event: `rst` asserted and released while the block runs (R33, R210, R211). -/

namespace Sys2Proof.Machine

/-- The output actions a command emits before its response, in order (R60). -/
def commandActions (i : Instr) (s : State) : List Output :=
  match i with
  | .rdrst _ => []
  | .rpm _ => []
  | .rpms => []
  | .map raw => mapActions raw s
  | .clrall => []
  | .clrdsp _ => []
  | .setdig _ _ _ _ => []
  | .wrstr _ _ => []
  | .display => displayActions s
  | .setbrt level => setbrtActions level s
  | .config => configActions s

/-- What an abandoned command had already emitted (R211): the first of its actions, and no response. -/
def abandon (a : Option Abandoned) (s : State) : State :=
  match a with
  | none => s
  | some c =>
    match decode c.packet with
    | .ok i => emitAll ((commandActions i s).take c.sent) s
    | .error _ => s

/-- Reset (R211): the counters and the matrix take their reset values (R31, R32) and nothing is emitted; the parameters
and the chip are unaffected (R33, R212). The pulses `lost` that arrive meanwhile are not counted. -/
def applyReset (a : Option Abandoned) (_lost : List Fan) (s : State) : State :=
  { abandon a s with cnt0 := 0, cnt1 := 0, matrix := zeroMatrix }

end Sys2Proof.Machine
end

