-- ==== Sys2Proof/Machine/Step.lean ====
section
/-! DEFINITION. One step of the model: the next event of the schedule happens, whole (R8, R53). The block has no program
counter and fetches nothing (R26, R63): its next instruction is the next packet the host sends (R42). -/

namespace Sys2Proof.Machine

/-- One step. With nothing scheduled the block waits: nothing changes. A pulse is counted (R100); a packet is decoded and
executed, or refused (R76); reset does what R211 says. -/
def step (s : State) : Host.Outcome State Fault Refusal :=
  match s.inputs with
  | [] => .next s
  | .pulse f :: rest => .next (pulse f (setInputs rest s))
  | .packet c :: rest =>
    match decode c with
    | .ok i => exec i (setInputs rest s)
    | .error e => .next (takeError e (setInputs rest s))
  | .reset a lost :: rest => .next (applyReset a lost (setInputs rest s))

/-- The packet of an opcode-table word as the next thing the host sends. -/
def State.withFetchWord (s : State) (nbits w : Nat) : State :=
  { s with inputs := .packet (tablePacket nbits w) :: s.inputs }

end Sys2Proof.Machine
end

