-- ==== Sys2Proof/Safety.lean ====
section
/-! DEFINITION. What counts as a good state and a good run, in the terms the claims use. -/

namespace Sys2Proof.Machine

/-- The parameters are legal (R5) and each counter is a CNTW-bit value (R21). -/
abbrev State.wf (s : State) : Prop :=
  s.cfg.wf ∧ s.cnt0 < 2 ^ s.cfg.cntw ∧ s.cnt1 < 2 ^ s.cfg.cntw

/-- `k` steps; the machine never stops before (R221). It is `Host.Core.run` of this machine, with `step` in sight. -/
def runSteps : Nat → State → Host.Outcome State Fault Refusal
  | 0, s => .next s
  | k + 1, s =>
    match step s with
    | .next t => runSteps k t
    | .fault r => .fault r
    | .refused r => .refused r

/-- The number a big-endian byte list stands for (R50). -/
def beValue (bs : List Byte) : Nat := bs.foldl (fun n b => 256 * n + b.toNat) 0

/-- The instruction exchanges CNT[f] (R102, R103, R104). -/
def exchanges (f : Fan) : Instr → Bool
  | .rdrst x => fanOf x == some f
  | .rpm x => fanOf x == some f
  | .rpms => true
  | .map _ => false
  | .clrall => false
  | .clrdsp _ => false
  | .setdig _ _ _ _ => false
  | .wrstr _ _ => false
  | .display => false
  | .setbrt _ => false
  | .config => false

/-- The event is a packet whose command exchanges CNT[f]. -/
def eventExchanges (f : Fan) : Event → Bool
  | .packet c =>
    match decode c with
    | .ok i => exchanges f i
    | .error _ => false
  | .pulse _ => false
  | .reset _ _ => false

/-- The event is a reset. -/
def isReset : Event → Bool
  | .reset _ _ => true
  | .pulse _ => false
  | .packet _ => false

/-- The `Pulse(f)` events among a list of events. -/
def pulseCount (f : Fan) (es : List Event) : Nat := es.countP (· == .pulse f)

/-- The value the next step takes out of CNT[f] by an exchange; zero where it does none. -/
def takenNext (f : Fan) (s : State) : Nat :=
  match s.inputs with
  | [] => 0
  | e :: _ => if eventExchanges f e then getCnt f s else 0

/-- The sum of the values the first `k` steps take out of CNT[f] by exchanges (R58). -/
def takenInRun (f : Fan) : Nat → State → Nat
  | 0, _ => 0
  | k + 1, s =>
    takenNext f s +
      match step s with
      | .next t => takenInRun f k t
      | .fault _ => 0
      | .refused _ => 0

/-- In the first `k` steps no `Pulse(f)` meets CNT[f] at 2^CNTW - 1: no wrap (R101). -/
def neverWraps (f : Fan) : Nat → State → Prop
  | 0, _ => True
  | k + 1, s =>
    (s.inputs.head? = some (.pulse f) → getCnt f s + 1 < 2 ^ s.cfg.cntw) ∧
      match step s with
      | .next t => neverWraps f k t
      | .fault _ => True
      | .refused _ => True

/-- The bytes of a transaction have one of the four shapes of R163: oscillator enable, display enable, brightness 0xE0
to 0xEF, or the buffer write of the matrix `m`. -/
def oneOfFourShapes (m : Matrix) (bs : List Byte) : Prop :=
  bs = [0x21#8] ∨ bs = [0x81#8] ∨ (∃ lv, lv < 16 ∧ bs = [BitVec.ofNat 8 (0xE0 + lv)]) ∨
    bs = 0x00#8 :: (List.range 16).map (readRow m)

/-- The packet `c` is refused with the status byte `code` and has no other effect: the one response is that byte (R180). -/
def refusedWith (c : List Byte) (code : Byte) : Prop :=
  ∀ (s : State) (rest : List Event),
    step { s with inputs := .packet c :: rest } =
      .next { s with inputs := rest, outputs := s.outputs ++ [.response [code]] }

/-- The output is a response packet (R43). -/
def isResponse : Output → Bool
  | .response _ => true
  | .busTx _ _ => false
  | .pwmSet _ _ => false

/-- A digit slot of a display (R22): its seven segments as a pattern and its decimal point, as `SETDIG` with a resolved
pattern would leave them (R132, net effect). -/
def slotShows (m : Matrix) (d p : Nat) (pat : BitVec 7) (dot : Bool) : Prop :=
  (∀ s, s < 7 → readBit m (8 * d + s) p = pat.getLsbD s) ∧ readBit m (8 * d + 7) p = dot

/-- The digits a text shows, each with its decimal point (R138): a digit byte gives one, with the point when the very next
byte is '.'; every other byte gives none. The text is read once for its whole length, with no count of slots. -/
def digitsOf : List Byte → List (Byte × Bool)
  | [] => []
  | c :: rest =>
    if isDigitByte c then (digitValue c, rest.head? == some dotByte) :: digitsOf rest else digitsOf rest

end Sys2Proof.Machine
end

