-- ==== Sys2Proof/Certificates/Slice0/Obligations.lean ====
section
/-! DEFINITION. The statements for the provers. Each docstring says which rule it formalises, or, for a derived one, what
it rests on. -/

open Sys2Proof Sys2Proof.Machine

/-! Reset, step and the whole machine -/

/-- R31, R32: after reset both counters are 0 and every row of the matrix is 0x00. -/
def Obligations.ResetClearsCountersAndMatrix : Prop :=
  State.reset.cnt0 = 0 ∧ State.reset.cnt1 = 0 ∧ ∀ r, r < 16 → readRow State.reset.matrix r = 0x00#8

/-- The invariant of `StepKeepsWellFormedState` holds at reset. -/
def Obligations.ResetStateIsWellFormed : Prop := State.reset.wf

/-- From every state, reachable or not: if the parameters are legal and the counters are CNTW-bit values, so they are after
a step (R5, R21). -/
def Obligations.StepKeepsWellFormedState : Prop :=
  ∀ s t : State, s.wf → step s = .next t → t.wf

/-- No event stops the machine: every step answers a next state and uses up the head of the schedule (R221, which the spec
marks as derived; the schedule is the model's own, log entry 7). -/
def Obligations.EveryStepCompletes : Prop :=
  ∀ s : State, ∃ t, step s = .next t ∧ t.inputs = s.inputs.tail

/-- A step on a packet that decodes runs the decoded instruction, on the state from which the packet has been taken. -/
def Obligations.StepRunsDecodedInstruction : Prop :=
  ∀ (s : State) (c : List Byte) (rest : List Event) (i : Instr), decode c = .ok i →
    step { s with inputs := .packet c :: rest } = exec i { s with inputs := rest }

/-- Every packet, legal or not, gets exactly one response, which is the last action of the command and starts with one of the
four status bytes (R43, R81; the payloads are `ResponseOfEachCommand`'s). -/
def Obligations.EveryPacketGetsOneResponse : Prop :=
  ∀ (s : State) (c : List Byte) (rest : List Event),
    ∃ t acts status payload,
      step { s with inputs := .packet c :: rest } = .next t ∧
      t.outputs = s.outputs ++ acts ++ [.response (status :: payload)] ∧
      (∀ o ∈ acts, isResponse o = false) ∧
      status ∈ [0x00#8, 0x01#8, 0x02#8, 0x03#8]

/-- R80: the response of each command that passes the decoder, its payload and the payload's length; a command that passed
the decoder never fails (R181). -/
def Obligations.ResponseOfEachCommand : Prop :=
  (∀ (i : Instr) (s : State), wellFormed i = true →
    ∃ t acts payload,
      exec i s = .next t ∧
      t.outputs = s.outputs ++ acts ++ [.response (0x00#8 :: payload)] ∧
      (∀ o ∈ acts, isResponse o = false) ∧
      (∀ f, i = .rdrst f → payload = beBytes ((s.cfg.cntw + 7) / 8) (if f = 0x00#8 then s.cnt0 else s.cnt1) ∧
        payload.length = (s.cfg.cntw + 7) / 8) ∧
      (∀ f, i = .rpm f →
        payload = beBytes ((s.cfg.cntw + 5 + 7) / 8) ((if f = 0x00#8 then s.cnt0 else s.cnt1) / 2 * 60) ∧
        payload.length = (s.cfg.cntw + 5 + 7) / 8) ∧
      (i = .rpms →
        payload = beBytes ((s.cfg.cntw + 5 + 7) / 8) (s.cnt0 / 2 * 60) ++
          beBytes ((s.cfg.cntw + 5 + 7) / 8) (s.cnt1 / 2 * 60) ∧
        payload.length = 2 * ((s.cfg.cntw + 5 + 7) / 8)) ∧
      (∀ raw, i = .map raw → payload = beBytes 4 (curve s.cfg.period raw).toNat ∧ payload.length = 4) ∧
      ((i = .clrall ∨ (∃ d, i = .clrdsp d) ∨ (∃ d p v dot, i = .setdig d p v dot) ∨ (∃ d text, i = .wrstr d text) ∨
        i = .display ∨ (∃ level, i = .setbrt level) ∨ i = .config) → payload = [])) ∧
  (∀ (c : List Byte) (e : PacketError), decode c = .error e → ∃ code, code ≠ 0x00#8 ∧ refusedWith c code)

/-- No step changes the parameters of the instance (R24). -/
def Obligations.NoStepChangesTheParameters : Prop :=
  ∀ s t : State, step s = .next t → t.cfg = s.cfg

/-- The tach commands touch only the counters, the matrix commands only the matrix, the duty and bus commands
neither; only MAP calls the PWM sink (R46); only the bus commands transmit and reach the chip (R20, R164). -/
def Obligations.UnitsTouchDisjointState : Prop :=
  ∀ (i : Instr) (s t : State), exec i s = .next t →
    t.cfg = s.cfg ∧ t.inputs = s.inputs ∧
    ((∀ f, i ≠ .rdrst f) → (∀ f, i ≠ .rpm f) → i ≠ .rpms → t.cnt0 = s.cnt0 ∧ t.cnt1 = s.cnt1) ∧
    (i ≠ .clrall → (∀ d, i ≠ .clrdsp d) → (∀ d p v dot, i ≠ .setdig d p v dot) → (∀ d x, i ≠ .wrstr d x) →
      t.matrix = s.matrix) ∧
    ((∀ raw, i ≠ .map raw) → ∀ ch duty, .pwmSet ch duty ∈ t.outputs → .pwmSet ch duty ∈ s.outputs) ∧
    (i ≠ .display → (∀ level, i ≠ .setbrt level) → i ≠ .config →
      t.chip = s.chip ∧ t.busResults = s.busResults ∧ ∀ a bs, .busTx a bs ∈ t.outputs → .busTx a bs ∈ s.outputs)

/-- Whatever happens, a bus transaction goes to BUS_ADDR and has one of the four shapes of R163; and which command emits
which. Outputs are only ever appended (R60). -/
def Obligations.OnlyFourTransactionShapes : Prop :=
  (∀ s t : State, step s = .next t →
    ∃ new, t.outputs = s.outputs ++ new ∧
      ∀ a bs, .busTx a bs ∈ new → a = s.cfg.busAddr ∧ oneOfFourShapes s.matrix bs) ∧
  (∀ (i : Instr) (s t : State), exec i s = .next t →
    ∃ new, t.outputs = s.outputs ++ new ∧
      ∀ a bs, .busTx a bs ∈ new →
        (i = .config ∧ (bs = [0x21#8] ∨ bs = [0x81#8] ∨ bs = [0xEF#8])) ∨
        (∃ level : Byte, i = .setbrt level ∧ bs = [BitVec.ofNat 8 (0xE0 + min level.toNat 15)]) ∨
        (i = .display ∧ bs = 0x00#8 :: (List.range 16).map (readRow s.matrix)))

/-- R165: the block never looks at the transmitter's results, nor at the chip: with other results to come and another chip,
a step does the same to everything else. And whatever the results, each bus command sends each of its transactions once
and answers OK. -/
def Obligations.TransmitterResultIsIgnored : Prop :=
  (∀ (s t : State) (rs : List BusResult) (c : Chip), step s = .next t →
    ∃ u, step { s with busResults := rs, chip := c } = .next u ∧
      { u with busResults := t.busResults, chip := t.chip } = t) ∧
  (∀ (s : State) (rs : List BusResult),
    (∃ t bs, exec .display { s with busResults := rs } = .next t ∧
      t.outputs = s.outputs ++ [.busTx s.cfg.busAddr bs, .response [0x00#8]]) ∧
    (∀ level, ∃ t bs, exec (.setbrt level) { s with busResults := rs } = .next t ∧
      t.outputs = s.outputs ++ [.busTx s.cfg.busAddr bs, .response [0x00#8]]) ∧
    (∃ t b1 b2 b3, exec .config { s with busResults := rs } = .next t ∧
      t.outputs = s.outputs ++ [.busTx s.cfg.busAddr b1, .busTx s.cfg.busAddr b2, .busTx s.cfg.busAddr b3,
        .response [0x00#8]]))

/-! Encoding -/

/-- Every well-formed instruction is what its packet decodes to, with every operand at every value (R71, R72, R73). -/
def Obligations.DecodeInvertsEncode : Prop :=
  ∀ i : Instr, wellFormed i = true → decode (encode i) = .ok i

/-- Every packet that decodes is the packet of its instruction: no bit of a packet is dropped and no two packets mean the
same (R70, R71). -/
def Obligations.EncodeInvertsDecode : Prop :=
  ∀ (c : List Byte) (i : Instr), decode c = .ok i → encode i = c

/-- R181, R188, R180: which packets are refused with which error, from the opcode bytes and the lengths of R71 and R73; a
refused packet is answered by its status byte alone and has no other effect; a packet that passes is answered OK. -/
def Obligations.DecoderRefusesExactly : Prop :=
  (∀ c : List Byte, decode c = .error .errOpcode ↔
    ∃ op args, c = op :: args ∧
      op ∉ [0x10#8, 0x11#8, 0x12#8, 0x20#8, 0x30#8, 0x31#8, 0x32#8, 0x33#8, 0x34#8, 0x35#8, 0x36#8]) ∧
  (∀ c : List Byte, decode c = .error .errLength ↔
    c = [] ∨ ∃ op args, c = op :: args ∧
      ((op ∈ [0x12#8, 0x30#8, 0x34#8, 0x36#8] ∧ c.length ≠ 1) ∨
        (op ∈ [0x10#8, 0x11#8, 0x31#8, 0x35#8] ∧ c.length ≠ 2) ∨
        (op = 0x20#8 ∧ c.length ≠ 3) ∨ (op = 0x32#8 ∧ c.length ≠ 5) ∨ (op = 0x33#8 ∧ c.length < 2))) ∧
  (∀ c : List Byte, decode c = .error .errOperand ↔
    (∃ op f, c = [op, f] ∧ op ∈ [0x10#8, 0x11#8] ∧ 2 ≤ f.toNat) ∨
      ∃ d p v dot, c = [0x32#8, d, p, v, dot] ∧ 2 ≤ dot.toNat) ∧
  (∀ c : List Byte,
    (decode c = .error .errOpcode → refusedWith c 0x01#8) ∧
    (decode c = .error .errLength → refusedWith c 0x02#8) ∧
    (decode c = .error .errOperand → refusedWith c 0x03#8)) ∧
  (∀ (c : List Byte) (i : Instr) (s : State), decode c = .ok i →
    ∃ t acts payload, exec i s = .next t ∧ t.outputs = s.outputs ++ acts ++ [.response (0x00#8 :: payload)] ∧
      ∀ o ∈ acts, isResponse o = false)

/-- The example packets of R82 and one packet of every other format decode to what they stand for. -/
def Obligations.SpecPacketsDecode : Prop :=
  decode [0x32#8, 0x01#8, 0x07#8, 0x01#8, 0x00#8] = .ok (.setdig 1#8 7#8 1#8 0#8) ∧
  decode [0x33#8, 0x00#8, 0x31#8, 0x2E#8] = .ok (.wrstr 0#8 [0x31#8, 0x2E#8]) ∧
  decode [0x20#8, 0x80#8, 0x00#8] = .ok (.map 32768#16) ∧
  decode [0x10#8, 0x01#8] = .ok (.rdrst 1#8) ∧
  decode [0x36#8] = .ok .config

/-- R50: multi-byte fields are big-endian and zero-extended: the raw operand of MAP is its two bytes, the first the high
one, and the payloads carry a count in CNTB bytes, an RPM in RPMB bytes and a duty in four. `beValue` reads bytes from
the most significant down. -/
def Obligations.MultiByteFieldsAreBigEndian : Prop :=
  (∀ n v, (beBytes n v).length = n ∧ (v < 256 ^ n → beValue (beBytes n v) = v)) ∧
  (∀ hi lo : Byte, ∃ raw, decode [0x20#8, hi, lo] = .ok (.map raw) ∧ raw.toNat = 256 * hi.toNat + lo.toNat) ∧
  (∀ (f : Fan) (x : Byte) (s : State), fanOf x = some f → getCnt f s < 2 ^ s.cfg.cntw →
    (∃ t bs, exec (.rdrst x) s = .next t ∧ t.outputs = s.outputs ++ [.response (0x00#8 :: bs)] ∧
      bs.length = (s.cfg.cntw + 7) / 8 ∧ beValue bs = getCnt f s) ∧
    ∃ t bs, exec (.rpm x) s = .next t ∧ t.outputs = s.outputs ++ [.response (0x00#8 :: bs)] ∧
      bs.length = (s.cfg.cntw + 5 + 7) / 8 ∧ beValue bs = getCnt f s / 2 * 60) ∧
  (∀ s : State, s.cnt0 < 2 ^ s.cfg.cntw → s.cnt1 < 2 ^ s.cfg.cntw →
    ∃ t b0 b1, exec .rpms s = .next t ∧ t.outputs = s.outputs ++ [.response (0x00#8 :: (b0 ++ b1))] ∧
      b0.length = (s.cfg.cntw + 5 + 7) / 8 ∧ b1.length = (s.cfg.cntw + 5 + 7) / 8 ∧
      beValue b0 = s.cnt0 / 2 * 60 ∧ beValue b1 = s.cnt1 / 2 * 60) ∧
  (∀ (raw : BitVec 16) (s : State), ∃ t duty bs, exec (.map raw) s = .next t ∧
    t.outputs = s.outputs ++ [.pwmSet 0 duty, .pwmSet 1 duty, .response (0x00#8 :: bs)] ∧
    bs.length = 4 ∧ beValue bs = duty.toNat)

/-! The tach unit -/

/-- R100: a pulse adds one to its own counter modulo 2^CNTW; nothing else changes and no output is emitted. -/
def Obligations.PulseAddsOneToItsCounter : Prop :=
  ∀ (s : State) (rest : List Event),
    step { s with inputs := .pulse .front :: rest } =
      .next { s with inputs := rest, cnt0 := (s.cnt0 + 1) % 2 ^ s.cfg.cntw } ∧
    step { s with inputs := .pulse .rear :: rest } =
      .next { s with inputs := rest, cnt1 := (s.cnt1 + 1) % 2 ^ s.cfg.cntw }

/-- R101: a pulse at a full counter makes it 0, silently. So `n` pulses in a row add `n` modulo 2^CNTW: 2^CNTW of them
vanish, and after an exchange, of fewer the counter holds all. -/
def Obligations.PulseAtFullCounterWraps : Prop :=
  (∀ (s : State) (rest : List Event), s.cnt0 = 2 ^ s.cfg.cntw - 1 →
    step { s with inputs := .pulse .front :: rest } = .next { s with inputs := rest, cnt0 := 0 }) ∧
  (∀ (s : State) (rest : List Event), s.cnt1 = 2 ^ s.cfg.cntw - 1 →
    step { s with inputs := .pulse .rear :: rest } = .next { s with inputs := rest, cnt1 := 0 }) ∧
  (∀ (f : Fan) (n : Nat) (s : State) (rest : List Event), getCnt f s < 2 ^ s.cfg.cntw →
    ∃ t, runSteps n { s with inputs := List.replicate n (.pulse f) ++ rest } = .next t ∧
      t.inputs = rest ∧ t.outputs = s.outputs ∧
      getCnt f t = (getCnt f s + n) % 2 ^ s.cfg.cntw ∧
      (n = 2 ^ s.cfg.cntw → getCnt f t = getCnt f s) ∧
      (getCnt f s = 0 → n < 2 ^ s.cfg.cntw → getCnt f t = n))

/-- R58: no pulse is lost or counted twice. Along every run without a reset, from every state and under every interleaving,
the values taken out of CNT[f] by exchanges and the present CNT[f] add up to the first CNT[f] and the pulses of fan f:
modulo 2^CNTW always, exactly when no pulse met a full counter. And a pulse before an exchange is in the value it
returns, one after it is left for the next. -/
def Obligations.PulsesAreNeitherLostNorDoubled : Prop :=
  (∀ (f : Fan) (k : Nat) (s t : State),
    (∀ e ∈ s.inputs.take k, isReset e = false) → runSteps k s = .next t →
    (takenInRun f k s + getCnt f t) % 2 ^ s.cfg.cntw =
        (getCnt f s + pulseCount f (s.inputs.take k)) % 2 ^ s.cfg.cntw ∧
      (neverWraps f k s → takenInRun f k s + getCnt f t = getCnt f s + pulseCount f (s.inputs.take k))) ∧
  (∀ (s : State) (rest : List Event), s.cnt0 + 1 < 2 ^ s.cfg.cntw →
    runSteps 2 { s with inputs := .pulse .front :: .packet [0x10#8, 0x00#8] :: rest } =
        .next { s with
          inputs := rest
          cnt0 := 0
          outputs := s.outputs ++ [.response (0x00#8 :: beBytes s.cfg.cntb (s.cnt0 + 1))] } ∧
      runSteps 2 { s with inputs := .packet [0x10#8, 0x00#8] :: .pulse .front :: rest } =
        .next { s with
          inputs := rest
          cnt0 := 1
          outputs := s.outputs ++ [.response (0x00#8 :: beBytes s.cfg.cntb s.cnt0)] }) ∧
  (∀ (s : State) (rest : List Event), s.cnt1 + 1 < 2 ^ s.cfg.cntw →
    runSteps 2 { s with inputs := .pulse .rear :: .packet [0x10#8, 0x01#8] :: rest } =
        .next { s with
          inputs := rest
          cnt1 := 0
          outputs := s.outputs ++ [.response (0x00#8 :: beBytes s.cfg.cntb (s.cnt1 + 1))] } ∧
      runSteps 2 { s with inputs := .packet [0x10#8, 0x01#8] :: .pulse .rear :: rest } =
        .next { s with
          inputs := rest
          cnt1 := 1
          outputs := s.outputs ++ [.response (0x00#8 :: beBytes s.cfg.cntb s.cnt1)] })

/-- A pulse does not interact with a command that does not exchange its counter: before it or after it, the result is
the same (R189, its last sentence). -/
def Obligations.PulseCommutesWithOtherCommands : Prop :=
  ∀ (f : Fan) (i : Instr) (s t : State), exchanges f i = false → exec i s = .next t →
    exec i (pulse f s) = .next (pulse f t)

/-- R102: `RDRST f` returns the whole counter and leaves it 0, the other counter and all else as they were; a packet of
another length or with another fan is refused and touches nothing. -/
def Obligations.RdrstReturnsAndClearsItsCounter : Prop :=
  (∀ s : State, exec (.rdrst 0x00#8) s =
    .next { s with
      cnt0 := 0
      outputs := s.outputs ++ [.response (0x00#8 :: beBytes ((s.cfg.cntw + 7) / 8) s.cnt0)] }) ∧
  (∀ s : State, exec (.rdrst 0x01#8) s =
    .next { s with
      cnt1 := 0
      outputs := s.outputs ++ [.response (0x00#8 :: beBytes ((s.cfg.cntw + 7) / 8) s.cnt1)] }) ∧
  (∀ f : Byte, f.toNat < 2 → decode [0x10#8, f] = .ok (.rdrst f)) ∧
  (∀ args : List Byte, args.length ≠ 1 → refusedWith (0x10#8 :: args) 0x02#8) ∧
  (∀ f : Byte, 2 ≤ f.toNat → refusedWith [0x10#8, f] 0x03#8)

/-- R103: `RPM f` returns the scaled counter and leaves it 0, the other counter and all else as they were; a packet of
another length or with another fan is refused and touches nothing. -/
def Obligations.RpmReturnsScaledCountAndClears : Prop :=
  (∀ s : State, exec (.rpm 0x00#8) s =
    .next { s with
      cnt0 := 0
      outputs := s.outputs ++ [.response (0x00#8 :: beBytes ((s.cfg.cntw + 5 + 7) / 8) (s.cnt0 / 2 * 60))] }) ∧
  (∀ s : State, exec (.rpm 0x01#8) s =
    .next { s with
      cnt1 := 0
      outputs := s.outputs ++ [.response (0x00#8 :: beBytes ((s.cfg.cntw + 5 + 7) / 8) (s.cnt1 / 2 * 60))] }) ∧
  (∀ f : Byte, f.toNat < 2 → decode [0x11#8, f] = .ok (.rpm f)) ∧
  (∀ args : List Byte, args.length ≠ 1 → refusedWith (0x11#8 :: args) 0x02#8) ∧
  (∀ f : Byte, 2 ≤ f.toNat → refusedWith [0x11#8, f] 0x03#8)

/-- R104: `RPMS` exchanges both counters at one instant and returns the front RPM, then the rear; all else as it was; a
longer packet is refused. -/
def Obligations.RpmsReturnsBothAndClearsBoth : Prop :=
  (∀ s : State, exec .rpms s =
    .next { s with
      cnt0 := 0
      cnt1 := 0
      outputs := s.outputs ++ [.response (0x00#8 ::
        (beBytes ((s.cfg.cntw + 5 + 7) / 8) (s.cnt0 / 2 * 60) ++
          beBytes ((s.cfg.cntw + 5 + 7) / 8) (s.cnt1 / 2 * 60)))] }) ∧
  decode [0x12#8] = .ok .rpms ∧
  (∀ args : List Byte, args ≠ [] → refusedWith (0x12#8 :: args) 0x02#8)

/-- R105: the scaling law, its width, its bit form and its laws. -/
def Obligations.ScaleLaws : Prop :=
  (∀ p, scale p = p / 2 * 60) ∧
  (∀ w p, p < 2 ^ w → scale p < 2 ^ (w + 5)) ∧
  (∀ p, scale p = ((p >>> 1) <<< 6) - ((p >>> 1) <<< 2)) ∧
  (∀ k, scale (2 * k) = 60 * k ∧ scale (2 * k + 1) = 60 * k) ∧
  (∀ p q, p ≤ q → scale p ≤ scale q) ∧
  (∀ p, 60 ∣ scale p)

/-- The model's choice for terms no packet decodes to (log entry 21): a reserved fan or dot operand gets the error answer
its packet gets, ERR_OPERAND, and has no other effect. -/
def Obligations.ReservedOperandTermsAnswerErrOperand : Prop :=
  (∀ (f : Byte) (s : State), 2 ≤ f.toNat →
    exec (.rdrst f) s = .next { s with outputs := s.outputs ++ [.response [0x03#8]] } ∧
    exec (.rpm f) s = .next { s with outputs := s.outputs ++ [.response [0x03#8]] }) ∧
  (∀ (d p v dot : Byte) (s : State), 2 ≤ dot.toNat →
    exec (.setdig d p v dot) s = .next { s with outputs := s.outputs ++ [.response [0x03#8]] })

/-! The duty unit -/

/-- R120, R121: `MAP raw` calls the sink for channel 0, then for channel 1, with one and the same duty, and returns it in
four bytes; the duty is the curve's; nothing else changes; a packet of another length is refused. -/
def Obligations.MapDrivesBothChannelsAlike : Prop :=
  (∀ (raw : BitVec 16) (s : State), ∃ duty : BitVec 32,
    duty.toNat = (if raw.toNat < 2000 then 0 else raw.toNat * raw.toNat * s.cfg.period.toNat / 4294836225) ∧
    exec (.map raw) s =
      .next { s with
        outputs := s.outputs ++
          [.pwmSet 0 duty, .pwmSet 1 duty, .response (0x00#8 :: beBytes 4 duty.toNat)] }) ∧
  (∀ hi lo : Byte, decode [0x20#8, hi, lo] = .ok (.map (hi ++ lo))) ∧
  (∀ args : List Byte, args.length ≠ 2 → refusedWith (0x20#8 :: args) 0x02#8)

/-- R122: the properties (a) to (f) of the curve, for every PERIOD. -/
def Obligations.CurveProperties : Prop :=
  ∀ period : BitVec 32,
    (curve period 0#16).toNat = 0 ∧
    (∀ raw : BitVec 16, raw.toNat < 2000 → (curve period raw).toNat = 0) ∧
    curve period 65535#16 = period ∧
    (∀ raw : BitVec 16, (curve period raw).toNat ≤ period.toNat) ∧
    (∀ raw raw' : BitVec 16, raw.toNat ≤ raw'.toNat → (curve period raw).toNat ≤ (curve period raw').toNat) ∧
    (curve period 2000#16).toNat = 4000000 * period.toNat / 4294836225 ∧
    (period.toNat = 40000 → (curve period 2000#16).toNat = 37) ∧
    (period.toNat ≤ 1073 → (curve period 2000#16).toNat = 0)

/-! The matrix unit -/

/-- R130: `CLRALL` zeroes all sixteen rows and nothing else; a longer packet is refused. -/
def Obligations.ClrallZeroesTheMatrix : Prop :=
  (∀ s : State, ∃ m, (∀ r, r < 16 → readRow m r = 0x00#8) ∧
    exec .clrall s = .next { s with matrix := m, outputs := s.outputs ++ [.response [0x00#8]] }) ∧
  decode [0x30#8] = .ok .clrall ∧
  (∀ args : List Byte, args ≠ [] → refusedWith (0x30#8 :: args) 0x02#8)

/-- R131: `CLRDSP d` zeroes the eight rows of display d and leaves every other row; for d >= 2 it changes nothing and is
answered OK; a packet of another length is refused. -/
def Obligations.ClrdspZeroesOnlyItsRows : Prop :=
  (∀ (d : Byte) (s : State), ∃ m,
    (∀ r, r < 16 → readRow m r =
      if d.toNat ≤ 1 ∧ 8 * d.toNat ≤ r ∧ r < 8 * d.toNat + 8 then 0x00#8 else readRow s.matrix r) ∧
    exec (.clrdsp d) s = .next { s with matrix := m, outputs := s.outputs ++ [.response [0x00#8]] }) ∧
  (∀ (d : Byte) (s : State), 2 ≤ d.toNat →
    exec (.clrdsp d) s = .next { s with outputs := s.outputs ++ [.response [0x00#8]] }) ∧
  (∀ d : Byte, decode [0x31#8, d] = .ok (.clrdsp d)) ∧
  (∀ args : List Byte, args.length ≠ 1 → refusedWith (0x31#8 :: args) 0x02#8)

/-- R132, R135: `SETDIG` gives the eight bits of column p of display d the pattern and the decimal point, changes no other
bit of the matrix and nothing else of the state; an address out of range changes nothing; a reserved dot or another
length is refused. -/
def Obligations.SetdigWritesExactlyOneColumn : Prop :=
  (∀ (d p v dot : Byte) (s : State), dot.toNat < 2 →
    ∃ (m : Matrix) (pat : BitVec 7),
      (∀ h : v.toNat < 10, pat = s.cfg.font[v.toNat]) ∧
      (10 ≤ v.toNat → pat = s.cfg.blank) ∧
      (∀ r q, r < 16 → q < 8 → readBit m r q =
        if d.toNat ≤ 1 ∧ 8 * d.toNat ≤ r ∧ r < 8 * d.toNat + 8 ∧ q = p.toNat then
          (if r = 8 * d.toNat + 7 then decide (dot = 0x01#8) else pat.getLsbD (r - 8 * d.toNat))
        else readBit s.matrix r q) ∧
      exec (.setdig d p v dot) s =
        .next { s with matrix := m, outputs := s.outputs ++ [.response [0x00#8]] }) ∧
  (∀ (d p v dot : Byte) (s : State), dot.toNat < 2 → 1 < d.toNat ∨ 7 < p.toNat →
    exec (.setdig d p v dot) s = .next { s with outputs := s.outputs ++ [.response [0x00#8]] }) ∧
  (∀ d p v dot : Byte, dot.toNat < 2 → decode [0x32#8, d, p, v, dot] = .ok (.setdig d p v dot)) ∧
  (∀ args : List Byte, args.length ≠ 4 → refusedWith (0x32#8 :: args) 0x02#8) ∧
  (∀ d p v dot : Byte, 2 ≤ dot.toNat → refusedWith [0x32#8, d, p, v, dot] 0x03#8)

/-- The patterns the source fixes (R134, R132): in a legal instance the digit 8 lights all seven segments of its slot and
the digit 1 lights the segments of index 1 and 2 and no other; the point is the dot operand's. -/
def Obligations.FixedFontEntriesAreShown : Prop :=
  ∀ (s : State) (d p dot : Byte), s.cfg.wf → d.toNat ≤ 1 → p.toNat ≤ 7 → dot.toNat < 2 →
    (∃ t, exec (.setdig d p 8#8 dot) s = .next t ∧
      slotShows t.matrix d.toNat p.toNat 0b1111111#7 (decide (dot = 0x01#8))) ∧
    (∃ t, exec (.setdig d p 1#8 dot) s = .next t ∧
      slotShows t.matrix d.toNat p.toNat 0b0000110#7 (decide (dot = 0x01#8)))

/-- Writing one slot twice is writing it the last time, and writes to different slots commute (R136, which the
spec marks as derived from R132). -/
def Obligations.SetdigOverwritesAndCommutes : Prop :=
  (∀ (cfg : Config) (d p : Nat) (v v' : Byte) (dot dot' : Bool) (m : Matrix),
    setDigit cfg d p v dot (setDigit cfg d p v' dot' m) = setDigit cfg d p v dot m) ∧
  (∀ (cfg : Config) (d p d' p' : Nat) (v v' : Byte) (dot dot' : Bool) (m : Matrix), (d, p) ≠ (d', p') →
    setDigit cfg d p v dot (setDigit cfg d' p' v' dot' m) = setDigit cfg d' p' v' dot' (setDigit cfg d p v dot m))

/-- R137 to R140: `WRSTR d, text` shows the digits of the text, each with its decimal point, in slots 0, 1, 2, ... of display
d, at most eight; the slots not reached are blank; no row of the other display changes, and nothing else of the state;
for d >= 2 nothing changes; a packet without a display byte is refused. `digitsOf` reads the text without counting
slots or stepping over bytes, so it is not the scan of the model. -/
def Obligations.WrstrShowsTheDigitsOfTheText : Prop :=
  (∀ (d : Byte) (text : List Byte) (s : State), d.toNat ≤ 1 →
    ∃ m : Matrix,
      (∀ p, p < 8 →
        (∀ v dot, (digitsOf text)[p]? = some (v, dot) → slotShows m d.toNat p (patternOf s.cfg v) dot) ∧
        ((digitsOf text)[p]? = none → slotShows m d.toNat p 0#7 false)) ∧
      (∀ r, r < 16 → r / 8 ≠ d.toNat → readRow m r = readRow s.matrix r) ∧
      exec (.wrstr d text) s =
        .next { s with matrix := m, outputs := s.outputs ++ [.response [0x00#8]] }) ∧
  (∀ (d : Byte) (text : List Byte) (s : State), 2 ≤ d.toNat →
    exec (.wrstr d text) s = .next { s with outputs := s.outputs ++ [.response [0x00#8]] }) ∧
  (∀ (d : Byte) (text : List Byte), decode (0x33#8 :: d :: text) = .ok (.wrstr d text)) ∧
  refusedWith [0x33#8] 0x02#8

/-- `WRSTR` depends only on the text in its own rows, is idempotent, on
different displays commutes, and with an empty text is `CLRDSP` (R141, R55, R61, which the spec marks as derived). -/
def Obligations.WrstrDependsOnlyOnItsText : Prop :=
  (∀ (cfg : Config) (d : Nat) (text : List Byte) (m m' : Matrix) (r : Nat), d ≤ 1 → r / 8 = d →
    readRow (writeString cfg d text m) r = readRow (writeString cfg d text m') r) ∧
  (∀ (cfg : Config) (d : Nat) (text : List Byte) (m : Matrix),
    writeString cfg d text (writeString cfg d text m) = writeString cfg d text m) ∧
  (∀ (cfg : Config) (d d' : Nat) (text text' : List Byte) (m : Matrix), d ≠ d' →
    writeString cfg d text (writeString cfg d' text' m) = writeString cfg d' text' (writeString cfg d text m)) ∧
  (∀ (cfg : Config) (d : Nat) (m : Matrix), writeString cfg d [] m = clearDisplay d m)

/-! The bus commands and the chip -/

/-- R160: `DISPLAY` sends one transaction of 17 bytes, 0x00 and then M[0] to M[15], and answers OK; nothing else of the
block changes; a longer packet is refused. What becomes of the environment, the chip and the transmitter's results to
come, is `BusTransactionsReachTheChip`'s. -/
def Obligations.DisplaySendsTheMatrixVerbatim : Prop :=
  (∀ s : State, ∃ (bs : List Byte) (c : Chip) (rs : List BusResult),
    bs.length = 17 ∧ bs[0]? = some 0x00#8 ∧ (∀ k, k < 16 → bs[k + 1]? = some (readRow s.matrix k)) ∧
    exec .display s =
      .next { s with
        outputs := s.outputs ++ [.busTx s.cfg.busAddr bs, .response [0x00#8]]
        chip := c
        busResults := rs }) ∧
  decode [0x34#8] = .ok .display ∧
  (∀ args : List Byte, args ≠ [] → refusedWith (0x34#8 :: args) 0x02#8)

/-- R161: `SETBRT level` sends one transaction of one byte, 0xE0 plus the level clamped to 15, and answers OK; nothing else
of the block changes; a packet of another length is refused. -/
def Obligations.SetbrtSendsTheClampedLevel : Prop :=
  (∀ (level : Byte) (s : State), ∃ (b : Byte) (c : Chip) (rs : List BusResult),
    b.toNat = 0xE0 + min level.toNat 15 ∧
    exec (.setbrt level) s =
      .next { s with
        outputs := s.outputs ++ [.busTx s.cfg.busAddr [b], .response [0x00#8]]
        chip := c
        busResults := rs }) ∧
  (∀ level : Byte, decode [0x35#8, level] = .ok (.setbrt level)) ∧
  (∀ args : List Byte, args.length ≠ 1 → refusedWith (0x35#8 :: args) 0x02#8)

/-- R162: `CONFIG` sends three transactions of one byte each, 0x21, 0x81, 0xEF, in that order, and answers OK; nothing else
of the block changes; a longer packet is refused. -/
def Obligations.ConfigSendsThreeTransactions : Prop :=
  (∀ s : State, ∃ (c : Chip) (rs : List BusResult), exec .config s =
    .next { s with
      outputs := s.outputs ++
        [.busTx s.cfg.busAddr [0x21#8], .busTx s.cfg.busAddr [0x81#8], .busTx s.cfg.busAddr [0xEF#8],
          .response [0x00#8]]
      chip := c
      busResults := rs }) ∧
  decode [0x36#8] = .ok .config ∧
  (∀ args : List Byte, args ≠ [] → refusedWith (0x36#8 :: args) 0x02#8)

/-- The model's choice for the environment (log entries 12 and 13): each transaction uses up one of the results to come, in
order, and the chip becomes what `chipAfter` says of that result: the receiver's next state when it is delivered (also past
the last result), the state the result names when it failed. -/
def Obligations.BusTransactionsReachTheChip : Prop :=
  (∀ s : State, ∃ t, exec .display s = .next t ∧ t.busResults = s.busResults.tail ∧
    t.chip = chipAfter s.busResults.head? (0x00#8 :: (List.range 16).map (readRow s.matrix)) s.chip) ∧
  (∀ (level : Byte) (s : State), ∃ t, exec (.setbrt level) s = .next t ∧ t.busResults = s.busResults.tail ∧
    t.chip = chipAfter s.busResults.head? [BitVec.ofNat 8 (0xE0 + min level.toNat 15)] s.chip) ∧
  (∀ s : State, ∃ t, exec .config s = .next t ∧ t.busResults = s.busResults.tail.tail.tail ∧
    t.chip = chipAfter s.busResults.tail.tail.head? [0xEF#8]
      (chipAfter s.busResults.tail.head? [0x81#8] (chipAfter s.busResults.head? [0x21#8] s.chip))) ∧
  (∀ (bs : List Byte) (c left : Chip),
    chipAfter (some .ok) bs c = chipRx bs c ∧ chipAfter none bs c = chipRx bs c ∧
    chipAfter (some (.failed left)) bs c = left)

/-- The registers of the reference chip on the four transactions (R196, informative; general knowledge, log entry 13). -/
def Obligations.ChipFollowsItsReferenceModel : Prop :=
  (∀ c : Chip, chipRx [0x21#8] c = { c with osc := true }) ∧
  (∀ c : Chip, chipRx [0x81#8] c = { c with on := true }) ∧
  (∀ (c : Chip) (lv : BitVec 4), chipRx [0xE#4 ++ lv] c = { c with bright := lv }) ∧
  (∀ (c : Chip) (rows : Vector Byte 16), chipRx (0x00#8 :: rows.toList) c = { c with ram := rows })

/-- With every transaction delivered, `CONFIG` and then `DISPLAY` make the chip show the matrix at brightness 15 (R196,
informative; the model's choice, log entries 12 and 13). -/
def Obligations.ConfigThenDisplayShowsTheMatrix : Prop :=
  ∀ s : State, (∀ r ∈ s.busResults, r = .ok) →
    ∃ t u, exec .config s = .next t ∧ exec .display t = .next u ∧ u.chip.bright = 15#4 ∧
      ∀ d k p, d < 2 → k < 8 → p < 8 → litSegment u.chip d k p = readBit s.matrix (8 * d + k) p

/-! The reset event -/

/-- The reset event (R211, R33, R212), in the form the model gives it (log entry 17): it clears the counters and the matrix,
emits nothing when no command is in progress, leaves the parameters and then the chip alone, and counts no pulse that
arrives meanwhile. -/
def Obligations.ResetEventClearsTheBlock : Prop :=
  ∀ (s : State) (lost : List Fan) (rest : List Event),
    step { s with inputs := .reset none lost :: rest } =
      .next { s with inputs := rest, cnt0 := 0, cnt1 := 0, matrix := zeroMatrix }

/-- A command that reset abandons sends no response, and has emitted no more than the first of its actions (R211, in the form
the model gives it, log entry 17). -/
def Obligations.ResetAbandonsWithoutResponse : Prop :=
  ∀ (s : State) (i : Instr) (c : List Byte) (k : Nat) (lost : List Fan) (rest : List Event), decode c = .ok i →
    ∃ t u acts payload,
      step { s with inputs := .reset (some ⟨c, k⟩) lost :: rest } = .next t ∧
      exec i { s with inputs := rest } = .next u ∧
      u.outputs = s.outputs ++ acts ++ [.response payload] ∧
      t.outputs = s.outputs ++ acts.take k ∧
      (∀ o ∈ acts.take k, isResponse o = false) ∧
      t.cnt0 = 0 ∧ t.cnt1 = 0 ∧ (∀ r, r < 16 → readRow t.matrix r = 0x00#8) ∧ t.cfg = s.cfg ∧ t.inputs = rest
end

