-- ==== Sys2Proof/Laws/Decode.lean ====
section
/-! SUPPORT. What the parts of the decoder answer, said once. -/

namespace Sys2Proof

/-- The opcode map is one to one (R73). -/
theorem opcodeOf_opcodeByte (o : Opcode) : opcodeOf (opcodeByte o) = some o := by cases o <;> rfl

theorem opcodeOf_eq_some (b : Byte) (o : Opcode) : opcodeOf b = some o ↔ b = opcodeByte o := by
  constructor
  · intro h
    have := List.find?_some h
    simpa using (beq_iff_eq.mp this).symm
  · rintro rfl
    exact opcodeOf_opcodeByte o

theorem opcodeOf_eq_none (b : Byte) : opcodeOf b = none ↔ ∀ o, b ≠ opcodeByte o := by
  constructor
  · intro h o e
    rw [(opcodeOf_eq_some b o).mpr e] at h
    cases h
  · intro h
    cases e : opcodeOf b with
    | none => rfl
    | some o => exact absurd ((opcodeOf_eq_some b o).mp e) (h o)

/-! The two bytes of a 16-bit operand (R72) -/

theorem hiByte_append (a b : Byte) : (a ++ b).extractLsb' 8 8 = a := by
  apply BitVec.eq_of_getLsbD_eq
  intro k hk
  rw [BitVec.getLsbD_extractLsb', BitVec.getLsbD_append]
  simp [hk]

theorem loByte_append (a b : Byte) : (a ++ b).extractLsb' 0 8 = b := by
  apply BitVec.eq_of_getLsbD_eq
  intro k hk
  rw [BitVec.getLsbD_extractLsb', BitVec.getLsbD_append]
  simp [hk]

theorem append_hiByte_loByte (r : BitVec 16) : r.extractLsb' 8 8 ++ r.extractLsb' 0 8 = r := by
  apply BitVec.eq_of_getLsbD_eq
  intro k hk
  rw [BitVec.getLsbD_append]
  by_cases h8 : k < 8
  · simp [h8]
  · have e : 8 + (k - 8) = k := by omega
    have h : k - 8 < 8 := by omega
    simp [h8, h, e]

/-! The formats (R71) -/

theorem operandsF0_isSome (i : Instr) (args : List Byte) :
    (operandsF0 i args).isSome = formatFits .f0 (args.length + 1) := by
  cases args <;> simp [operandsF0, formatFits, formatLength]

theorem operandsF1_isSome (make : Byte → Instr) (args : List Byte) :
    (operandsF1 make args).isSome = formatFits .f1 (args.length + 1) := by
  rcases args with _ | ⟨a, _ | ⟨b, rest⟩⟩ <;> simp [operandsF1, formatFits, formatLength]

theorem operandsF2_isSome (make : BitVec 16 → Instr) (args : List Byte) :
    (operandsF2 make args).isSome = formatFits .f2 (args.length + 1) := by
  rcases args with _ | ⟨a, _ | ⟨b, _ | ⟨c, rest⟩⟩⟩ <;> simp [operandsF2, formatFits, formatLength]

theorem operandsF4_isSome (make : Byte → Byte → Byte → Byte → Instr) (args : List Byte) :
    (operandsF4 make args).isSome = formatFits .f4 (args.length + 1) := by
  rcases args with _ | ⟨a, _ | ⟨b, _ | ⟨c, _ | ⟨d, _ | ⟨e, rest⟩⟩⟩⟩⟩ <;> simp [operandsF4, formatFits, formatLength]

theorem operandsFS_isSome (make : Byte → List Byte → Instr) (args : List Byte) :
    (operandsFS make args).isSome = formatFits .fs (args.length + 1) := by
  cases args <;> simp [operandsFS, formatFits]

/-- The operands assemble exactly when the packet's length fits the opcode's format (R76). -/
theorem assemble_isSome (o : Opcode) (args : List Byte) :
    (assemble o args).isSome = formatFits (opcodeFormat o) (args.length + 1) := by
  cases o <;>
    first
      | exact operandsF0_isSome _ _
      | exact operandsF1_isSome _ _
      | exact operandsF2_isSome _ _
      | exact operandsF4_isSome _ _
      | exact operandsFS_isSome _ _

/-- The decoder on a packet with an opcode byte, its checks in order (R76). -/
theorem decode_cons (b : Byte) (args : List Byte) :
    decode (b :: args) =
      match opcodeOf b with
      | none => .error .errOpcode
      | some o =>
        match assemble o args with
        | none => .error .errLength
        | some i => if wellFormed i then .ok i else .error .errOperand := rfl

/-- What the decoder accepts is well formed. -/
theorem decode_ok_wellFormed (c : List Byte) (i : Instr) (h : decode c = .ok i) : wellFormed i = true := by
  cases c with
  | nil => cases h
  | cons b args =>
    rw [decode_cons] at h
    split at h
    · cases h
    · split at h
      · cases h
      · split at h
        · next hw => cases h; exact hw
        · cases h

end Sys2Proof
end

