-- ==== Sys2Proof/Laws/State.lean ====
section
/-! SUPPORT. One lemma per field per update of the state, so that no later proof unfolds a record update. -/

namespace Sys2Proof.Machine

/-! `setCnt` -/

@[simp] theorem setCnt_front (v : Nat) (s : State) : setCnt .front v s = { s with cnt0 := v } := rfl
@[simp] theorem setCnt_rear (v : Nat) (s : State) : setCnt .rear v s = { s with cnt1 := v } := rfl
@[simp] theorem getCnt_front (s : State) : getCnt .front s = s.cnt0 := rfl
@[simp] theorem getCnt_rear (s : State) : getCnt .rear s = s.cnt1 := rfl
@[simp] theorem setCnt_cfg (f : Fan) (v : Nat) (s : State) : (setCnt f v s).cfg = s.cfg := by cases f <;> rfl
@[simp] theorem setCnt_matrix (f : Fan) (v : Nat) (s : State) : (setCnt f v s).matrix = s.matrix := by
  cases f <;> rfl
@[simp] theorem setCnt_chip (f : Fan) (v : Nat) (s : State) : (setCnt f v s).chip = s.chip := by cases f <;> rfl
@[simp] theorem setCnt_busResults (f : Fan) (v : Nat) (s : State) : (setCnt f v s).busResults = s.busResults := by
  cases f <;> rfl
@[simp] theorem setCnt_inputs (f : Fan) (v : Nat) (s : State) : (setCnt f v s).inputs = s.inputs := by
  cases f <;> rfl
@[simp] theorem setCnt_outputs (f : Fan) (v : Nat) (s : State) : (setCnt f v s).outputs = s.outputs := by
  cases f <;> rfl
@[simp] theorem getCnt_setCnt_self (f : Fan) (v : Nat) (s : State) : getCnt f (setCnt f v s) = v := by
  cases f <;> rfl
theorem getCnt_setCnt_ne (f g : Fan) (v : Nat) (s : State) (h : g ≠ f) : getCnt g (setCnt f v s) = getCnt g s := by
  cases f <;> cases g <;> first | rfl | exact absurd rfl h

/-! `setMatrix` -/

@[simp] theorem setMatrix_matrix (m : Matrix) (s : State) : (setMatrix m s).matrix = m := rfl
@[simp] theorem setMatrix_cfg (m : Matrix) (s : State) : (setMatrix m s).cfg = s.cfg := rfl
@[simp] theorem setMatrix_cnt0 (m : Matrix) (s : State) : (setMatrix m s).cnt0 = s.cnt0 := rfl
@[simp] theorem setMatrix_cnt1 (m : Matrix) (s : State) : (setMatrix m s).cnt1 = s.cnt1 := rfl
@[simp] theorem setMatrix_chip (m : Matrix) (s : State) : (setMatrix m s).chip = s.chip := rfl
@[simp] theorem setMatrix_busResults (m : Matrix) (s : State) : (setMatrix m s).busResults = s.busResults := rfl
@[simp] theorem setMatrix_inputs (m : Matrix) (s : State) : (setMatrix m s).inputs = s.inputs := rfl
@[simp] theorem setMatrix_outputs (m : Matrix) (s : State) : (setMatrix m s).outputs = s.outputs := rfl
@[simp] theorem getCnt_setMatrix (f : Fan) (m : Matrix) (s : State) : getCnt f (setMatrix m s) = getCnt f s := by
  cases f <;> rfl

/-! `setInputs` -/

@[simp] theorem setInputs_inputs (r : List Event) (s : State) : (setInputs r s).inputs = r := rfl
@[simp] theorem setInputs_cfg (r : List Event) (s : State) : (setInputs r s).cfg = s.cfg := rfl
@[simp] theorem setInputs_cnt0 (r : List Event) (s : State) : (setInputs r s).cnt0 = s.cnt0 := rfl
@[simp] theorem setInputs_cnt1 (r : List Event) (s : State) : (setInputs r s).cnt1 = s.cnt1 := rfl
@[simp] theorem setInputs_matrix (r : List Event) (s : State) : (setInputs r s).matrix = s.matrix := rfl
@[simp] theorem setInputs_chip (r : List Event) (s : State) : (setInputs r s).chip = s.chip := rfl
@[simp] theorem setInputs_busResults (r : List Event) (s : State) : (setInputs r s).busResults = s.busResults := rfl
@[simp] theorem setInputs_outputs (r : List Event) (s : State) : (setInputs r s).outputs = s.outputs := rfl
@[simp] theorem getCnt_setInputs (f : Fan) (r : List Event) (s : State) : getCnt f (setInputs r s) = getCnt f s := by
  cases f <;> rfl

/-! `emit` -/

@[simp] theorem emit_outputs (o : Output) (s : State) : (emit o s).outputs = s.outputs ++ [o] := by cases o <;> rfl
@[simp] theorem emit_cfg (o : Output) (s : State) : (emit o s).cfg = s.cfg := by cases o <;> rfl
@[simp] theorem emit_cnt0 (o : Output) (s : State) : (emit o s).cnt0 = s.cnt0 := by cases o <;> rfl
@[simp] theorem emit_cnt1 (o : Output) (s : State) : (emit o s).cnt1 = s.cnt1 := by cases o <;> rfl
@[simp] theorem emit_matrix (o : Output) (s : State) : (emit o s).matrix = s.matrix := by cases o <;> rfl
@[simp] theorem emit_inputs (o : Output) (s : State) : (emit o s).inputs = s.inputs := by cases o <;> rfl
@[simp] theorem getCnt_emit (f : Fan) (o : Output) (s : State) : getCnt f (emit o s) = getCnt f s := by
  cases f <;> simp [getCnt]
theorem emit_response (bs : List Byte) (s : State) :
    emit (.response bs) s = { s with outputs := s.outputs ++ [.response bs] } := rfl
theorem emit_pwmSet (ch : Fin 2) (d : BitVec 32) (s : State) :
    emit (.pwmSet ch d) s = { s with outputs := s.outputs ++ [.pwmSet ch d] } := rfl
theorem emit_busTx (a : Nat) (bs : List Byte) (s : State) :
    emit (.busTx a bs) s =
      { s with
        outputs := s.outputs ++ [.busTx a bs]
        chip := chipAfter s.busResults.head? bs s.chip
        busResults := s.busResults.tail } := rfl

/-! `emitAll` -/

@[simp] theorem emitAll_nil (s : State) : emitAll [] s = s := rfl
@[simp] theorem emitAll_cons (o : Output) (os : List Output) (s : State) :
    emitAll (o :: os) s = emitAll os (emit o s) := rfl
@[simp] theorem emitAll_outputs (os : List Output) (s : State) : (emitAll os s).outputs = s.outputs ++ os := by
  induction os generalizing s with
  | nil => simp
  | cons o os ih => simp [ih]
@[simp] theorem emitAll_cfg (os : List Output) (s : State) : (emitAll os s).cfg = s.cfg := by
  induction os generalizing s with
  | nil => rfl
  | cons o os ih => simp [ih]
@[simp] theorem emitAll_cnt0 (os : List Output) (s : State) : (emitAll os s).cnt0 = s.cnt0 := by
  induction os generalizing s with
  | nil => rfl
  | cons o os ih => simp [ih]
@[simp] theorem emitAll_cnt1 (os : List Output) (s : State) : (emitAll os s).cnt1 = s.cnt1 := by
  induction os generalizing s with
  | nil => rfl
  | cons o os ih => simp [ih]
@[simp] theorem emitAll_matrix (os : List Output) (s : State) : (emitAll os s).matrix = s.matrix := by
  induction os generalizing s with
  | nil => rfl
  | cons o os ih => simp [ih]
@[simp] theorem emitAll_inputs (os : List Output) (s : State) : (emitAll os s).inputs = s.inputs := by
  induction os generalizing s with
  | nil => rfl
  | cons o os ih => simp [ih]
@[simp] theorem getCnt_emitAll (f : Fan) (os : List Output) (s : State) : getCnt f (emitAll os s) = getCnt f s := by
  cases f <;> simp [getCnt]

end Sys2Proof.Machine
end

