-- ==== Sys2Proof/Laws/Ops.lean ====
section
/-! SUPPORT. What each shared operation does, said once: the response, the refusal, the exchange, the bits and rows of the
matrix, the operand forms and the byte order. -/

namespace Sys2Proof.Machine

/-! The response, the refusal and the exchange -/

/-- `respondOk` appends one response and does nothing else. -/
theorem respondOk_eq (p : List Byte) (s : State) :
    respondOk p s = { s with outputs := s.outputs ++ [.response (0x00#8 :: p)] } := rfl

/-- `takeError` appends the error status alone and does nothing else. -/
theorem takeError_eq (e : PacketError) (s : State) :
    takeError e s = { s with outputs := s.outputs ++ [.response [errorStatus e]] } := rfl

theorem exchange_eq (f : Fan) (s : State) : exchange f s = (getCnt f s, setCnt f 0 s) := rfl

/-! Operands -/

theorem fanOf_eq_some (f : Byte) (h : f.toNat < 2) :
    fanOf f = if f.toNat = 0 then some .front else some .rear := by
  have : f = 0#8 ∨ f = 1#8 := by
    rcases Nat.lt_or_ge f.toNat 1 with h' | h'
    · exact .inl (BitVec.eq_of_toNat_eq (by simp; omega))
    · exact .inr (BitVec.eq_of_toNat_eq (by simp; omega))
  rcases this with rfl | rfl <;> rfl

theorem fanOf_eq_none (f : Byte) (h : 2 ≤ f.toNat) : fanOf f = none := by
  have h0 : f ≠ 0#8 := by rintro rfl; simp at h
  have h1 : f ≠ 1#8 := by rintro rfl; simp at h
  simp [fanOf, h0, h1]

theorem dotOf_eq_some (t : Byte) (h : t.toNat < 2) : dotOf t = some (t.getLsbD 0) := by
  have : t = 0#8 ∨ t = 1#8 := by
    rcases Nat.lt_or_ge t.toNat 1 with h' | h'
    · exact .inl (BitVec.eq_of_toNat_eq (by simp; omega))
    · exact .inr (BitVec.eq_of_toNat_eq (by simp; omega))
  rcases this with rfl | rfl <;> rfl

theorem dotOf_eq_none (t : Byte) (h : 2 ≤ t.toNat) : dotOf t = none := by
  have h0 : t ≠ 0#8 := by rintro rfl; simp at h
  have h1 : t ≠ 1#8 := by rintro rfl; simp at h
  simp [dotOf, h0, h1]

/-- A fan operand is legal exactly when it selects a counter (R74, R78). -/
theorem fanOf_isSome (f : Byte) : (fanOf f).isSome = legalFan f := by
  unfold legalFan
  rcases Nat.lt_or_ge f.toNat 2 with h | h
  · rw [fanOf_eq_some f h]; split <;> simp [h]
  · rw [fanOf_eq_none f h]; simp; omega

/-- A dot operand is legal exactly when it is a truth value (R78). -/
theorem dotOf_isSome (t : Byte) : (dotOf t).isSome = legalDot t := by
  unfold legalDot
  rcases Nat.lt_or_ge t.toNat 2 with h | h
  · rw [dotOf_eq_some t h]; simp [h]
  · rw [dotOf_eq_none t h]; simp; omega

@[simp] theorem beBytes_length (n v : Nat) : (beBytes n v).length = n := by
  induction n generalizing v with
  | zero => rfl
  | succ n ih => simp [beBytes, ih]

/-! Bits and rows of the matrix -/

theorem getLsbD_setBitTo (p q : Nat) (b : Bool) (x : Byte) (hp : p < 8) (hq : q < 8) :
    (setBitTo p b x).getLsbD q = if p = q then b else x.getLsbD q := by
  have key : ((1#8 <<< p).getLsbD q) = decide (p = q) := by
    rw [BitVec.getLsbD_shiftLeft]
    rcases Nat.lt_trichotomy q p with h | h | h
    · have : p ≠ q := by omega
      simp [h, this]
    · subst h; simp [hp]
    · have h1 : p ≠ q := by omega
      have h2 : q - p ≠ 0 := by omega
      simp [h1, h2, BitVec.getLsbD_one]
  unfold setBitTo
  cases b
  · simp only [Bool.false_eq_true, if_false, BitVec.getLsbD_and, BitVec.getLsbD_not, key, hq]
    by_cases h : p = q <;> simp [h]
  · simp only [if_true, BitVec.getLsbD_or, key]
    by_cases h : p = q <;> simp [h]

theorem readRow_writeRow (r r' : Nat) (v : Byte) (m : Matrix) (h : r < 16) :
    readRow (writeRow r v m) r' = if r = r' then v else readRow m r' := by
  unfold readRow writeRow
  by_cases h' : r = r'
  · subst h'
    simp [h]
  · simp [h']

theorem readBit_writeBit (r p r' q : Nat) (b : Bool) (m : Matrix) (hr : r < 16) (hp : p < 8) (hq : q < 8) :
    readBit (writeBit r p b m) r' q = if r = r' ∧ p = q then b else readBit m r' q := by
  unfold readBit writeBit
  rw [readRow_writeRow _ _ _ _ hr]
  by_cases h : r = r'
  · subst h
    simp only [if_true, true_and, getLsbD_setBitTo p q b _ hp hq]
  · simp [h]

/-- Two matrices with the same rows are the same. -/
theorem matrix_ext_rows (m m' : Matrix) (h : ∀ r, r < 16 → readRow m r = readRow m' r) : m = m' := by
  apply Vector.ext
  intro r hr
  simpa [readRow, hr] using h r hr

/-- Two matrices with the same 128 bits are the same (R22). -/
theorem matrix_ext (m m' : Matrix) (h : ∀ r q, r < 16 → q < 8 → readBit m r q = readBit m' r q) : m = m' := by
  apply matrix_ext_rows
  intro r hr
  apply BitVec.eq_of_getLsbD_eq
  intro q hq
  exact h r q hr hq

theorem readRow_zeroMatrix (r : Nat) : readRow zeroMatrix r = 0#8 := by
  unfold readRow zeroMatrix
  by_cases h : r < 16 <;> simp [h]

@[simp] theorem matrixBytes_length (m : Matrix) : (matrixBytes m).length = 16 := by simp [matrixBytes]

end Sys2Proof.Machine
end

