-- ==== Sys2Proof/Laws/Matrix.lean ====
section
/-! SUPPORT. What each operation of the matrix unit does to the rows and bits of the matrix, said once. -/

namespace Sys2Proof.Machine

/-- A loop of row writes leaves `v` in the rows it names and the others as they were. -/
theorem readRow_foldl_writeRow (f : Nat → Nat) (v : Byte) (l : List Nat) (m : Matrix) (r : Nat)
    (hl : ∀ s ∈ l, f s < 16) :
    readRow (l.foldl (fun m s => writeRow (f s) v m) m) r = if ∃ s ∈ l, f s = r then v else readRow m r := by
  induction l generalizing m with
  | nil => simp
  | cons a l ih =>
    rw [List.foldl_cons, ih _ (fun s hs => hl s (List.mem_cons_of_mem _ hs)),
      readRow_writeRow _ _ _ _ (hl a List.mem_cons_self)]
    by_cases h1 : ∃ s ∈ l, f s = r
    · have h2 : ∃ s ∈ a :: l, f s = r := h1.imp fun s hs => ⟨List.mem_cons_of_mem _ hs.1, hs.2⟩
      rw [if_pos h1, if_pos h2]
    · by_cases h3 : f a = r
      · have h2 : ∃ s ∈ a :: l, f s = r := ⟨a, List.mem_cons_self, h3⟩
        rw [if_neg h1, if_pos h3, if_pos h2]
      · have h2 : ¬ ∃ s ∈ a :: l, f s = r := by
          rintro ⟨s, hs, e⟩
          rcases List.mem_cons.mp hs with rfl | hs
          · exact h3 e
          · exact h1 ⟨s, hs, e⟩
        rw [if_neg h1, if_neg h3, if_neg h2]

/-- A loop of bit writes in one column leaves `b` in the rows it picks and every other bit as it was. -/
theorem readBit_foldl_writeBit (ro p : Nat) (b : Bool) (g : Nat → Bool) (l : List Nat) (m : Matrix) (r q : Nat)
    (hl : ∀ s ∈ l, ro + s < 16) (hp : p < 8) (hq : q < 8) :
    readBit (l.foldl (fun m s => if g s then writeBit (ro + s) p b m else m) m) r q =
      if p = q ∧ ∃ s ∈ l, g s = true ∧ ro + s = r then b else readBit m r q := by
  induction l generalizing m with
  | nil => simp
  | cons a l ih =>
    rw [List.foldl_cons, ih _ (fun s hs => hl s (List.mem_cons_of_mem _ hs))]
    have ha := hl a List.mem_cons_self
    by_cases hpq : p = q
    · by_cases h1 : ∃ s ∈ l, g s = true ∧ ro + s = r
      · have h2 : ∃ s ∈ a :: l, g s = true ∧ ro + s = r :=
          h1.imp fun s hs => ⟨List.mem_cons_of_mem _ hs.1, hs.2⟩
        rw [if_pos ⟨hpq, h1⟩, if_pos ⟨hpq, h2⟩]
      · rw [if_neg (fun h => h1 h.2)]
        by_cases hg : g a = true
        · rw [if_pos hg, readBit_writeBit _ _ _ _ _ _ ha hp hq]
          by_cases h3 : ro + a = r
          · rw [if_pos ⟨h3, hpq⟩, if_pos ⟨hpq, a, List.mem_cons_self, hg, h3⟩]
          · rw [if_neg (fun h => h3 h.1), if_neg]
            rintro ⟨-, s, hs, hgs, e⟩
            rcases List.mem_cons.mp hs with rfl | hs
            · exact h3 e
            · exact h1 ⟨s, hs, hgs, e⟩
        · rw [if_neg hg, if_neg]
          rintro ⟨-, s, hs, hgs, e⟩
          rcases List.mem_cons.mp hs with rfl | hs
          · exact hg hgs
          · exact h1 ⟨s, hs, hgs, e⟩
    · have no : ∀ P : Prop, ¬ (p = q ∧ P) := fun P h => hpq h.1
      by_cases hg : g a = true
      · simp only [if_neg (no _), if_pos hg]
        rw [readBit_writeBit _ _ _ _ _ _ ha hp hq, if_neg (fun h => hpq h.2)]
      · simp only [if_neg (no _), if_neg hg]

theorem readRow_clearAll (m : Matrix) (r : Nat) (hr : r < 16) : readRow (clearAll m) r = 0#8 := by
  have h := readRow_foldl_writeRow id 0#8 (List.range 16) m r (fun s hs => by simpa using hs)
  have e : ∃ s ∈ List.range 16, id s = r := ⟨r, by simpa using hr, rfl⟩
  rw [if_pos e] at h
  exact h

/-- `clearDisplay` zeroes the eight rows of a display that exists and no other row. -/
theorem readRow_clearDisplay (d : Nat) (m : Matrix) (r : Nat) :
    readRow (clearDisplay d m) r = if d ≤ 1 ∧ r / 8 = d then 0#8 else readRow m r := by
  unfold clearDisplay
  by_cases hd : d ≤ 1
  · have h := readRow_foldl_writeRow (fun s => 8 * d + s) 0#8 (List.range 8) m r
      (fun s hs => by have := List.mem_range.mp hs; omega)
    rw [if_pos hd, h]
    by_cases hr : r / 8 = d
    · rw [if_pos ⟨r % 8, List.mem_range.mpr (by omega), by omega⟩, if_pos ⟨hd, hr⟩]
    · rw [if_neg, if_neg (fun h => hr h.2)]
      rintro ⟨s, hs, e⟩
      have := List.mem_range.mp hs
      omega
  · rw [if_neg hd, if_neg (fun h => hd h.1)]

theorem readBit_clearColumn (ro p : Nat) (m : Matrix) (r q : Nat) (hro : ro ≤ 8) (hp : p < 8) (hq : q < 8) :
    readBit (clearColumn ro p m) r q = if p = q ∧ ro ≤ r ∧ r < ro + 8 then false else readBit m r q := by
  have h := readBit_foldl_writeBit ro p false (fun _ => true) (List.range 8) m r q
    (fun s hs => by have := List.mem_range.mp hs; omega) hp hq
  have e : clearColumn ro p m =
      (List.range 8).foldl (fun m s => if true = true then writeBit (ro + s) p false m else m) m := by
    simp [clearColumn]
  have c : (∃ s ∈ List.range 8, true = true ∧ ro + s = r) = (ro ≤ r ∧ r < ro + 8) := by
    apply propext
    constructor
    · rintro ⟨s, hs, -, e⟩
      have := List.mem_range.mp hs
      omega
    · rintro ⟨h1, h2⟩
      exact ⟨r - ro, List.mem_range.mpr (by omega), rfl, by omega⟩
  rw [e, h]
  exact if_congr (by rw [c]) rfl rfl

theorem readBit_drawPattern (ro p : Nat) (pat : BitVec 7) (m : Matrix) (r q : Nat) (hro : ro ≤ 8) (hp : p < 8)
    (hq : q < 8) :
    readBit (drawPattern ro p pat m) r q =
      if p = q ∧ ro ≤ r ∧ r < ro + 7 ∧ pat.getLsbD (r - ro) = true then true else readBit m r q := by
  have h := readBit_foldl_writeBit ro p true (fun s => pat.getLsbD s) (List.range 7) m r q
    (fun s hs => by have := List.mem_range.mp hs; omega) hp hq
  have c : (∃ s ∈ List.range 7, pat.getLsbD s = true ∧ ro + s = r) ↔
      ro ≤ r ∧ r < ro + 7 ∧ pat.getLsbD (r - ro) = true := by
    constructor
    · rintro ⟨s, hs, hg, e⟩
      have := List.mem_range.mp hs
      have e' : r - ro = s := by omega
      rw [e']
      exact ⟨by omega, by omega, hg⟩
    · rintro ⟨h1, h2, h3⟩
      exact ⟨r - ro, List.mem_range.mpr (by omega), h3, by omega⟩
  exact h.trans (if_congr (and_congr_right fun _ => c) rfl rfl)

/-- The net effect of `setDigit` on one bit (R132, R135): the column of slot `p` of display `d` takes the pattern and the
decimal point; every other bit is as it was; an address out of range changes nothing. -/
theorem readBit_setDigit (cfg : Config) (d p : Nat) (v : Byte) (dot : Bool) (m : Matrix) (r q : Nat) (hq : q < 8) :
    readBit (setDigit cfg d p v dot m) r q =
      if d ≤ 1 ∧ p ≤ 7 ∧ r / 8 = d ∧ p = q then
        (if r % 8 = 7 then dot else (patternOf cfg v).getLsbD (r % 8))
      else readBit m r q := by
  unfold setDigit
  by_cases hbad : d > 1 ∨ p > 7
  · rw [if_pos hbad, if_neg]
    rintro ⟨h1, h2, -⟩
    omega
  · rw [if_neg hbad]
    have hd : d ≤ 1 := by omega
    have hp : p < 8 := by omega
    have core : readBit (drawPattern (8 * d) p (patternOf cfg v) (clearColumn (8 * d) p m)) r q =
        if p = q ∧ r / 8 = d then (r % 8 < 7 && (patternOf cfg v).getLsbD (r % 8)) else readBit m r q := by
      rw [readBit_drawPattern _ _ _ _ _ _ (by omega) hp hq, readBit_clearColumn _ _ _ _ _ (by omega) hp hq]
      by_cases hpq : p = q
      · by_cases hr : r / 8 = d
        · have e : r - 8 * d = r % 8 := by omega
          have c1 : 8 * d ≤ r := by omega
          have c2 : r < 8 * d + 8 := by omega
          rw [e]
          by_cases h7 : r % 8 < 7
          · have c3 : r < 8 * d + 7 := by omega
            cases hg : (patternOf cfg v).getLsbD (r % 8) <;> simp [hpq, hr, c1, c2, c3, h7]
          · have c3 : ¬ r < 8 * d + 7 := by omega
            simp [hpq, hr, c1, c2, c3, h7]
        · have c : ¬ (8 * d ≤ r ∧ r < 8 * d + 8) := by omega
          have c' : ¬ (8 * d ≤ r ∧ r < 8 * d + 7 ∧ (patternOf cfg v).getLsbD (r - 8 * d) = true) := by
            rintro ⟨h1, h2, -⟩
            omega
          rw [if_neg (fun h => c' h.2), if_neg (fun h => c h.2), if_neg (fun h => hr h.2)]
      · simp [hpq]
    cases dot
    · simp only [Bool.false_eq_true, if_false]
      rw [core]
      by_cases hpq : p = q
      · by_cases hr : r / 8 = d
        · rw [if_pos ⟨hpq, hr⟩, if_pos ⟨hd, by omega, hr, hpq⟩]
          by_cases h7 : r % 8 = 7
          · simp [h7]
          · have : r % 8 < 7 := by omega
            simp [h7, this]
        · rw [if_neg (fun h => hr h.2), if_neg (fun h => hr h.2.2.1)]
      · rw [if_neg (fun h => hpq h.1), if_neg (fun h => hpq h.2.2.2)]
    · simp only [if_true]
      rw [readBit_writeBit _ _ _ _ _ _ (by omega) hp hq, core]
      by_cases hpq : p = q
      · by_cases hr : r / 8 = d
        · rw [if_pos (show d ≤ 1 ∧ p ≤ 7 ∧ r / 8 = d ∧ p = q from ⟨hd, by omega, hr, hpq⟩)]
          by_cases h7 : r % 8 = 7
          · rw [if_pos ⟨by omega, hpq⟩, if_pos h7]
          · have h7' : r % 8 < 7 := by omega
            rw [if_neg (fun h => h7 (by omega)), if_pos ⟨hpq, hr⟩, if_neg h7]
            simp [h7']
        · rw [if_neg (fun h => hr (by omega)), if_neg (fun h => hr h.2), if_neg (fun h => hr h.2.2.1)]
      · rw [if_neg (fun h => hpq h.2), if_neg (fun h => hpq h.1), if_neg (fun h => hpq h.2.2.2)]

/-- `setDigit` writes no row of another display. -/
theorem readRow_setDigit_other (cfg : Config) (d p : Nat) (v : Byte) (dot : Bool) (m : Matrix) (r : Nat)
    (hr : r / 8 ≠ d) : readRow (setDigit cfg d p v dot m) r = readRow m r := by
  apply BitVec.eq_of_getLsbD_eq
  intro q hq
  have h := readBit_setDigit cfg d p v dot m r q hq
  rw [if_neg (fun h => hr h.2.2.1)] at h
  exact h

/-- With no such display, `setDigit` does nothing. -/
theorem setDigit_no_display (cfg : Config) (d p : Nat) (v : Byte) (dot : Bool) (m : Matrix) (hd : 1 < d) :
    setDigit cfg d p v dot m = m := by
  unfold setDigit
  rw [if_pos (.inl hd)]

/-- What one round of the scan of `WRSTR` does, said once: with a slot free, a digit fills it with the '.' that follows
(the '.' itself, skipped later or stepped over now, changes nothing), and any other byte is skipped. -/
theorem writeText_cons (cfg : Config) (d slot : Nat) (c : Byte) (rest : List Byte) (m : Matrix) (hs : slot < 8) :
    writeText cfg d slot (c :: rest) m =
      if isDigitByte c then
        writeText cfg d (slot + 1) rest (setDigit cfg d slot (digitValue c) (rest.head? == some dotByte) m)
      else writeText cfg d slot rest m := by
  cases rest with
  | nil => by_cases h : isDigitByte c <;> simp [writeText, hs, h]
  | cons c' rest =>
    by_cases h : isDigitByte c
    · by_cases h' : c' = dotByte
      · subst h'
        have skip : ∀ (k : Nat) (m : Matrix), writeText cfg d k (dotByte :: rest) m = writeText cfg d k rest m := by
          intro k m
          have hd : isDigitByte dotByte = false := by decide
          cases rest with
          | nil => simp [writeText, hd]
          | cons c'' rest =>
            by_cases hk : k < 8
            · simp [writeText, hd, hk]
            · cases rest <;> simp [writeText, hk]
        simp [writeText, hs, h, skip]
      · have e : (c' == dotByte) = false := by simpa using h'
        simp [writeText, hs, h, h', e]
    · simp [writeText, hs, h]

/-- With every slot filled the scan is over (R140). -/
theorem writeText_full (cfg : Config) (d slot : Nat) (text : List Byte) (m : Matrix) (hs : 8 ≤ slot) :
    writeText cfg d slot text m = m := by
  have h : ¬ slot < 8 := by omega
  match text with
  | [] => simp [writeText]
  | [c] => simp [writeText, h]
  | c :: c' :: rest => simp [writeText, h]

end Sys2Proof.Machine
end

