-- ==== Sys2Proof/Laws/PerInstr.lean ====
section
/-! SUPPORT. Facts proved instruction by instruction: the packet of every command starts with the opcode byte of its row
and has a length its format admits (R71, R73). -/

namespace Sys2Proof.Laws.EncodedFits

/-- The packet starts with a defined opcode and its length fits that opcode's format. -/
def Statement (i : Instr) : Prop :=
  ∃ o args, encode i = opcodeByte o :: args ∧ formatFits (opcodeFormat o) (args.length + 1) = true

theorem rdrst (f : Byte) : Statement (.rdrst f) := ⟨.rdrst, [f], rfl, rfl⟩
theorem rpm (f : Byte) : Statement (.rpm f) := ⟨.rpm, [f], rfl, rfl⟩
theorem rpms : Statement .rpms := ⟨.rpms, [], rfl, rfl⟩
theorem map (raw : BitVec 16) : Statement (.map raw) := ⟨.map, _, rfl, rfl⟩
theorem clrall : Statement .clrall := ⟨.clrall, [], rfl, rfl⟩
theorem clrdsp (d : Byte) : Statement (.clrdsp d) := ⟨.clrdsp, [d], rfl, rfl⟩
theorem setdig (d p v dot : Byte) : Statement (.setdig d p v dot) := ⟨.setdig, [d, p, v, dot], rfl, rfl⟩
theorem wrstr (d : Byte) (text : List Byte) : Statement (.wrstr d text) :=
  ⟨.wrstr, d :: text, rfl, by simp [formatFits, opcodeFormat]⟩
theorem display : Statement .display := ⟨.display, [], rfl, rfl⟩
theorem setbrt (level : Byte) : Statement (.setbrt level) := ⟨.setbrt, [level], rfl, rfl⟩
theorem config : Statement .config := ⟨.config, [], rfl, rfl⟩

end Sys2Proof.Laws.EncodedFits
end

