-- ==== Sys2Proof/Laws/Step.lean ====
section
/-! SUPPORT. What a command and a step can do, said once: the lemmas to cite instead of unfolding `exec` and `step`. -/

namespace Sys2Proof.Machine

/-- What `exec` can do. Either the command changes only the counters (each left or zeroed) and the matrix, then emits its
actions, then answers OK; or an operand is reserved and the one effect is the error answer. -/
theorem exec_cases (i : Instr) (s : State) :
    (∃ p u, exec i s = .next (respondOk p (emitAll (commandActions i s) u)) ∧
      u.cfg = s.cfg ∧ u.chip = s.chip ∧ u.busResults = s.busResults ∧ u.inputs = s.inputs ∧ u.outputs = s.outputs ∧
      (u.cnt0 = s.cnt0 ∨ u.cnt0 = 0) ∧ (u.cnt1 = s.cnt1 ∨ u.cnt1 = 0)) ∨
    (wellFormed i = false ∧ exec i s = .next (takeError .errOperand s)) := by
  cases i with
  | rdrst f =>
    rcases Nat.lt_or_ge f.toNat 2 with h | h
    · have hf := fanOf_eq_some f h
      by_cases h0 : f.toNat = 0
      · rw [if_pos h0] at hf
        refine .inl ⟨beBytes s.cfg.cntb s.cnt0, { s with cnt0 := 0 }, ?_, rfl, rfl, rfl, rfl, rfl, .inr rfl, .inl rfl⟩
        simp [exec, execRdrst, hf, exchange_eq, commandActions]
      · rw [if_neg h0] at hf
        refine .inl ⟨beBytes s.cfg.cntb s.cnt1, { s with cnt1 := 0 }, ?_, rfl, rfl, rfl, rfl, rfl, .inl rfl, .inr rfl⟩
        simp [exec, execRdrst, hf, exchange_eq, commandActions]
    · refine .inr ⟨?_, ?_⟩
      · simp [wellFormed, legalFan]; omega
      · simp [exec, execRdrst, fanOf_eq_none f h]
  | rpm f =>
    rcases Nat.lt_or_ge f.toNat 2 with h | h
    · have hf := fanOf_eq_some f h
      by_cases h0 : f.toNat = 0
      · rw [if_pos h0] at hf
        refine .inl ⟨beBytes s.cfg.rpmb (scale s.cnt0), { s with cnt0 := 0 }, ?_, rfl, rfl, rfl, rfl, rfl,
          .inr rfl, .inl rfl⟩
        simp [exec, execRpm, hf, exchange_eq, commandActions]
      · rw [if_neg h0] at hf
        refine .inl ⟨beBytes s.cfg.rpmb (scale s.cnt1), { s with cnt1 := 0 }, ?_, rfl, rfl, rfl, rfl, rfl,
          .inl rfl, .inr rfl⟩
        simp [exec, execRpm, hf, exchange_eq, commandActions]
    · refine .inr ⟨?_, ?_⟩
      · simp [wellFormed, legalFan]; omega
      · simp [exec, execRpm, fanOf_eq_none f h]
  | rpms => exact .inl ⟨_, _, rfl, rfl, rfl, rfl, rfl, rfl, .inr rfl, .inr rfl⟩
  | map raw => exact .inl ⟨_, _, rfl, rfl, rfl, rfl, rfl, rfl, .inl rfl, .inl rfl⟩
  | clrall => exact .inl ⟨_, _, rfl, rfl, rfl, rfl, rfl, rfl, .inl rfl, .inl rfl⟩
  | clrdsp d => exact .inl ⟨_, _, rfl, rfl, rfl, rfl, rfl, rfl, .inl rfl, .inl rfl⟩
  | setdig d p v dot =>
    rcases Nat.lt_or_ge dot.toNat 2 with h | h
    · refine .inl ⟨[], setMatrix (setDigit s.cfg d.toNat p.toNat v (dot.getLsbD 0) s.matrix) s, ?_,
        rfl, rfl, rfl, rfl, rfl, .inl rfl, .inl rfl⟩
      simp [exec, execSetdig, dotOf_eq_some dot h, commandActions]
    · refine .inr ⟨?_, ?_⟩
      · simp [wellFormed, legalDot]; omega
      · simp [exec, execSetdig, dotOf_eq_none dot h]
  | wrstr d text => exact .inl ⟨_, _, rfl, rfl, rfl, rfl, rfl, rfl, .inl rfl, .inl rfl⟩
  | display => exact .inl ⟨_, _, rfl, rfl, rfl, rfl, rfl, rfl, .inl rfl, .inl rfl⟩
  | setbrt level => exact .inl ⟨_, _, rfl, rfl, rfl, rfl, rfl, rfl, .inl rfl, .inl rfl⟩
  | config => exact .inl ⟨_, _, rfl, rfl, rfl, rfl, rfl, rfl, .inl rfl, .inl rfl⟩

/-- No action of a command is a response: the response is its last output (R43). -/
theorem commandActions_no_response (i : Instr) (s : State) (bs : List Byte) : .response bs ∉ commandActions i s := by
  cases i <;> simp [commandActions, mapActions, displayActions, setbrtActions, configActions]

/-- What one step can do, by the event at the head of the schedule. -/
theorem step_cases (s t : State) (h : step s = .next t) :
    (s.inputs = [] ∧ t = s) ∨
    (∃ f rest, s.inputs = .pulse f :: rest ∧ t = pulse f (setInputs rest s)) ∨
    (∃ c rest i, s.inputs = .packet c :: rest ∧ decode c = .ok i ∧ exec i (setInputs rest s) = .next t) ∨
    (∃ c rest e, s.inputs = .packet c :: rest ∧ decode c = .error e ∧ t = takeError e (setInputs rest s)) ∨
    (∃ a lost rest, s.inputs = .reset a lost :: rest ∧ t = applyReset a lost (setInputs rest s)) := by
  unfold step at h
  split at h
  · next e => cases h; exact .inl ⟨e, rfl⟩
  · next f rest e => cases h; exact .inr (.inl ⟨f, rest, e, rfl⟩)
  · next c rest e =>
    split at h
    · next i hi => exact .inr (.inr (.inl ⟨c, rest, i, e, hi, h⟩))
    · next x hx => cases h; exact .inr (.inr (.inr (.inl ⟨c, rest, x, e, hx, rfl⟩)))
  · next a lost rest e => cases h; exact .inr (.inr (.inr (.inr ⟨a, lost, rest, e, rfl⟩)))

/-- What an abandoned command had done (R211): it had emitted the first of its actions, and nothing else. -/
theorem abandon_cases (a : Option Abandoned) (s : State) :
    abandon a s = s ∨ ∃ c i, a = some c ∧ decode c.packet = .ok i ∧
      abandon a s = emitAll ((commandActions i s).take c.sent) s := by
  cases a with
  | none => exact .inl rfl
  | some c =>
    cases h : decode c.packet with
    | ok i => exact .inr ⟨c, i, rfl, h, by simp [abandon, h]⟩
    | error e => exact .inl (by simp [abandon, h])

end Sys2Proof.Machine
end

