-- ==== Sys2Proof/Tests/Slice0.lean ====
section
/-! SUPPORT. Tests: expected results are the spec's own vectors (`95_test_vectors.md`; the id stands before each test) or
written out from its encoding tables; and a witness for every statement that has hypotheses. -/

namespace Sys2Proof.Tests

open Sys2Proof Sys2Proof.Machine

/-! A small state: the default parameters, a bus address, a chip with nothing unknown -/

/-- The default parameters with BUS_ADDR = 0x70, which stands for the vectors' `A`. -/
def cfg : Config := { Config.standard with busAddr := 0x70 }

/-- A state with the given counters and matrix. -/
def st (c0 c1 : Nat) (m : Matrix) : State where
  cfg := cfg
  cnt0 := c0
  cnt1 := c1
  matrix := m
  chip := ⟨false, false, 0#4, Vector.replicate 16 0#8⟩
  busResults := []
  inputs := []
  outputs := []

/-- The all-zero matrix of the vectors. -/
def z : Matrix := Vector.replicate 16 0#8

/-- The matrix 16 x AA of the vectors. -/
def aa : Matrix := Vector.replicate 16 0xAA#8

/-- Sends one packet. -/
def send (s : State) (c : List Byte) : State :=
  match step { s with inputs := [.packet c] } with
  | .next t => t
  | .fault _ => s
  | .refused _ => s

/-- Delivers one event. -/
def deliver (s : State) (e : Event) : State :=
  match step { s with inputs := [e] } with
  | .next t => t
  | .fault _ => s
  | .refused _ => s

/-! Well-formedness: an ill-formed term for each check (R78) -/

theorem test_wellFormed_refuses_rdrst_fan : wellFormed (.rdrst 2#8) = false := by decide
theorem test_wellFormed_refuses_rpm_fan : wellFormed (.rpm 0xFF#8) = false := by decide
theorem test_wellFormed_refuses_dot : wellFormed (.setdig 0#8 0#8 8#8 2#8) = false := by decide
theorem test_wellFormed_accepts_out_of_range : wellFormed (.setdig 9#8 9#8 9#8 1#8) = true := by decide

/-! Decoding: one packet of every row, written out from R71 and R73 -/

theorem test_decode_rdrst : decode [0x10#8, 0x01#8] = .ok (.rdrst 1#8) := by decide
theorem test_decode_rpm : decode [0x11#8, 0x00#8] = .ok (.rpm 0#8) := by decide
theorem test_decode_rpms : decode [0x12#8] = .ok .rpms := by decide
theorem test_decode_map : decode [0x20#8, 0x07#8, 0xCF#8] = .ok (.map 1999#16) := by decide
theorem test_decode_clrall : decode [0x30#8] = .ok .clrall := by decide
theorem test_decode_clrdsp : decode [0x31#8, 0x05#8] = .ok (.clrdsp 5#8) := by decide
theorem test_decode_setdig :
    decode [0x32#8, 0x01#8, 0x07#8, 0x02#8, 0x00#8] = .ok (.setdig 1#8 7#8 2#8 0#8) := by decide
theorem test_decode_wrstr :
    decode [0x33#8, 0x01#8, 0x31#8, 0x2E#8] = .ok (.wrstr 1#8 [0x31#8, 0x2E#8]) := by decide
theorem test_decode_wrstr_empty : decode [0x33#8, 0x00#8] = .ok (.wrstr 0#8 []) := by decide
theorem test_decode_display : decode [0x34#8] = .ok .display := by decide
theorem test_decode_setbrt : decode [0x35#8, 0x14#8] = .ok (.setbrt 20#8) := by decide
theorem test_decode_config : decode [0x36#8] = .ok .config := by decide

/-- V-E: an empty packet. -/
theorem test_decode_empty : decode [] = .error .errLength := by decide
/-- V-E: undefined opcodes, the length irrelevant. -/
theorem test_decode_opcode :
    decode [0x21#8, 0#8, 0#8] = .error .errOpcode ∧ decode [0x37#8] = .error .errOpcode := by decide
/-- V-E: the length is checked before the operand. -/
theorem test_decode_length_first : decode [0x10#8, 0x05#8, 0x00#8] = .error .errLength := by decide
/-- V-M11: the decoder's operand check. -/
theorem test_decode_operand : decode [0x32#8, 9#8, 9#8, 9#8, 2#8] = .error .errOperand := by decide

/-- The table's word 0x10 with the bits above it 0 is `10 00`. -/
theorem test_table_word : decodeTableWord 8 0x10 = some (.rdrst 0#8) := by decide
/-- Its second byte is bits 15..8. -/
theorem test_table_word_bytes : decodeTableWord 16 0x1435 = some (.setbrt 0x14#8) := by decide
/-- The first command after reset: `36` is answered OK. -/
theorem test_first_command :
    (match step (State.reset.withFetchWord 8 0x36) with
      | .next t => t.outputs.getLast? = some (.response [0x00#8])
      | .fault _ => False
      | .refused _ => False) := rfl

/-! The tach unit -/

/-- R100's example. -/
theorem test_pulse : (deliver (st 119 7 z) (.pulse .front)).cnt0 = 120 := by decide
/-- V-T10: the wrap. -/
theorem test_pulse_wraps : (deliver (st 0xFFFFFFFF 5 z) (.pulse .front)).cnt0 = 0 := by decide
/-- V-T9, and the other counter. -/
theorem test_rdrst :
    (send (st 0xFFFFFFFF 5 z) [0x10#8, 0x00#8]).outputs = [.response [0#8, 0xFF#8, 0xFF#8, 0xFF#8, 0xFF#8]] ∧
      (send (st 0xFFFFFFFF 5 z) [0x10#8, 0x00#8]).cnt1 = 5 := by decide
/-- V-T14. -/
theorem test_rdrst_no_such_fan :
    (send (st 4 4 z) [0x10#8, 0x02#8]).outputs = [.response [0x03#8]] ∧
      (send (st 4 4 z) [0x10#8, 0x02#8]).cnt0 = 4 := by decide
/-- S1: 121 pulses give 3600. -/
theorem test_rpm_odd :
    (send (st 7 121 z) [0x11#8, 0x01#8]).outputs = [.response [0#8, 0#8, 0#8, 0#8, 0x0E#8, 0x10#8]] ∧
      (send (st 7 121 z) [0x11#8, 0x01#8]).cnt1 = 0 := by decide
/-- V-T7: the result needs 37 bits. -/
theorem test_rpm_full :
    (send (st 0xFFFFFFFF 0 z) [0x11#8, 0x00#8]).outputs =
      [.response [0#8, 0x1D#8, 0xFF#8, 0xFF#8, 0xFF#8, 0xC4#8]] := by decide
/-- S4. -/
theorem test_rpms :
    (send (st 120 60 z) [0x12#8]).outputs =
      [.response [0#8, 0#8, 0#8, 0#8, 0x0E#8, 0x10#8, 0#8, 0#8, 0#8, 0x07#8, 0x08#8]] := by decide
/-- V-T15. -/
theorem test_rpms_length : (send (st 4 4 z) [0x12#8, 0x00#8]).outputs = [.response [0x02#8]] := by decide
/-- The vectors with CNTW = 8: CNT[0] = 255, `11 00` gives `00 1D C4`. -/
theorem test_rpm_eight_bits :
    (send { st 255 0 z with cfg := { cfg with cntw := 8 } } [0x11#8, 0x00#8]).outputs =
      [.response [0#8, 0x1D#8, 0xC4#8]] := by decide

/-! The duty unit -/

/-- V-D4. -/
theorem test_map_at_deadzone :
    (send (st 0 0 z) [0x20#8, 0x07#8, 0xD0#8]).outputs =
      [.pwmSet 0 37#32, .pwmSet 1 37#32, .response [0#8, 0#8, 0#8, 0#8, 0x25#8]] := by decide
/-- V-D11. -/
theorem test_map_near_full_scale :
    (send (st 0 0 z) [0x20#8, 0xFF#8, 0xFE#8]).outputs =
      [.pwmSet 0 39998#32, .pwmSet 1 39998#32, .response [0#8, 0#8, 0#8, 0x9C#8, 0x3E#8]] := by decide

/-! The matrix unit -/

/-- V-M15. -/
theorem test_clrall : (send (st 0 0 aa) [0x30#8]).matrix.toList = List.replicate 16 0#8 := rfl
/-- V-M13. -/
theorem test_clrdsp :
    (send (st 0 0 aa) [0x31#8, 0x01#8]).matrix.toList = List.replicate 8 0xAA#8 ++ List.replicate 8 0#8 := rfl
/-- V-M14. -/
theorem test_clrdsp_ignored :
    (send (st 0 0 aa) [0x31#8, 0x02#8]).matrix.toList = List.replicate 16 0xAA#8 ∧
      (send (st 0 0 aa) [0x31#8, 0x02#8]).outputs = [.response [0#8]] := by decide
/-- S7. -/
theorem test_setdig :
    (send (st 0 0 z) [0x32#8, 1#8, 7#8, 1#8, 0#8]).matrix.toList =
      [0#8, 0#8, 0#8, 0#8, 0#8, 0#8, 0#8, 0#8, 0#8, 0x80#8, 0x80#8, 0#8, 0#8, 0#8, 0#8, 0#8] := by decide
/-- V-M2. -/
theorem test_setdig_clears_column :
    (send (st 0 0 (Vector.replicate 16 0xFF#8)) [0x32#8, 1#8, 0#8, 7#8, 0#8]).matrix.toList =
      List.replicate 11 0xFF#8 ++ List.replicate 5 0xFE#8 := by decide
/-- V-W7: the first '.' is consumed, the second skipped. -/
theorem test_wrstr_dots :
    (send (st 0 0 z) [0x33#8, 0#8, 0x31#8, 0x2E#8, 0x2E#8, 0x32#8]).matrix.toList =
      [2#8, 3#8, 1#8, 2#8, 2#8, 0#8, 2#8, 1#8] ++ List.replicate 8 0#8 := by decide +kernel
/-- V-W4: the look-ahead on the eighth digit. -/
theorem test_wrstr_eight_digits :
    (send (st 0 0 z) [0x33#8, 0#8, 0x31#8, 0x32#8, 0x33#8, 0x34#8, 0x35#8, 0x36#8, 0x37#8, 0x38#8, 0x2E#8]).matrix.toList =
      [0xF6#8, 0xCF#8, 0xFD#8, 0xB6#8, 0xA2#8, 0xB8#8, 0xBE#8, 0x80#8] ++ List.replicate 8 0#8 := by decide +kernel

/-! The bus commands -/

/-- R160's example. -/
theorem test_display :
    (send (st 0 0 (send (st 0 0 z) [0x32#8, 0#8, 0#8, 8#8, 1#8]).matrix) [0x34#8]).outputs =
      [.busTx 0x70 (0#8 :: (List.replicate 8 1#8 ++ List.replicate 8 0#8)), .response [0#8]] := by decide
/-- S11. -/
theorem test_setbrt_clamps :
    (send (st 0 0 z) [0x35#8, 0x14#8]).outputs = [.busTx 0x70 [0xEF#8], .response [0#8]] := by decide
/-- V-B6: saturates, does not wrap. -/
theorem test_setbrt_sixteen :
    (send (st 0 0 z) [0x35#8, 0x10#8]).outputs = [.busTx 0x70 [0xEF#8], .response [0#8]] := by decide
/-- S12. -/
theorem test_config :
    (send (st 0 0 z) [0x36#8]).outputs =
      [.busTx 0x70 [0x21#8], .busTx 0x70 [0x81#8], .busTx 0x70 [0xEF#8], .response [0#8]] := by decide
/-- P2: the reference chip after CONFIG. -/
theorem test_config_chip :
    (send (st 0 0 z) [0x36#8]).chip.osc = true ∧ (send (st 0 0 z) [0x36#8]).chip.on = true ∧
      (send (st 0 0 z) [0x36#8]).chip.bright = 15#4 := by decide
/-- R211: one of CONFIG's transactions sent, then reset; no response. -/
theorem test_reset_abandons :
    (deliver (st 3 4 aa) (.reset (some ⟨[0x36#8], 1⟩) [.front])).outputs = [.busTx 0x70 [0x21#8]] ∧
      (deliver (st 3 4 aa) (.reset (some ⟨[0x36#8], 1⟩) [.front])).cnt0 = 0 := by decide

/-! Witnesses: for every statement with hypotheses, values that meet them, at a boundary of each range -/

/-- A one-bit counter at its largest value: the boundary of `State.wf`. -/
def narrow : State := { st 1 1 z with cfg := { cfg with cntw := 1 } }

theorem witness_StepKeepsWellFormedState :
    narrow.wf ∧ step { narrow with inputs := [.pulse .front] } = .next { narrow with inputs := [], cnt0 := 0 } := by
  refine ⟨?_, rfl⟩
  decide

theorem witness_StepRunsDecodedInstruction : decode [0x33#8, 0x00#8] = .ok (.wrstr 0#8 []) := by decide

theorem witness_ResponseOfEachCommand :
    wellFormed (.rdrst 1#8) = true ∧ decode [0x10#8, 0x02#8] = .error .errOperand := by decide

theorem witness_NoStepChangesTheParameters : step narrow = .next narrow := rfl

theorem witness_UnitsTouchDisjointState :
    exec .clrall narrow = .next { narrow with matrix := clearAll z, outputs := [.response [0x00#8]] } := rfl

theorem witness_OnlyFourTransactionShapes :
    step { narrow with inputs := [.packet [0x36#8]] } = exec .config narrow ∧
      exec (.setbrt 0xFF#8) narrow = .next (respondOk [] (emitAll (setbrtActions 0xFF#8 narrow) narrow)) := ⟨rfl, rfl⟩

theorem witness_TransmitterResultIsIgnored :
    step { narrow with inputs := [.packet [0x34#8]], busResults := [.failed narrow.chip] } =
      exec .display { narrow with busResults := [.failed narrow.chip] } := rfl

theorem witness_DecodeInvertsEncode :
    wellFormed (.setdig 0xFF#8 0xFF#8 0xFF#8 1#8) = true ∧ wellFormed (.rpm 1#8) = true := by decide

theorem witness_EncodeInvertsDecode : decode [0x20#8, 0xFF#8, 0x00#8] = .ok (.map 0xFF00#16) := by decide

theorem witness_DecoderRefusesExactly :
    decode [0x13#8] = .error .errOpcode ∧ decode [0x33#8] = .error .errLength ∧
      decode [0x11#8, 0x02#8] = .error .errOperand ∧ decode [0x11#8, 0x01#8] = .ok (.rpm 1#8) := by decide

theorem witness_MultiByteFieldsAreBigEndian :
    255 < 256 ^ 1 ∧ fanOf 0x01#8 = some .rear ∧ getCnt .rear narrow < 2 ^ narrow.cfg.cntw ∧
      narrow.cnt0 < 2 ^ narrow.cfg.cntw ∧ narrow.cnt1 < 2 ^ narrow.cfg.cntw := by decide

theorem witness_PulseAtFullCounterWraps :
    narrow.cnt0 = 2 ^ narrow.cfg.cntw - 1 ∧ narrow.cnt1 = 2 ^ narrow.cfg.cntw - 1 ∧
      getCnt .front narrow < 2 ^ narrow.cfg.cntw ∧ 2 = 2 ^ narrow.cfg.cntw ∧
      getCnt .rear { narrow with cnt1 := 0 } = 0 ∧ 1 < 2 ^ narrow.cfg.cntw := by decide

/-- A run of three steps: a pulse, an exchange, a pulse; no reset, no wrap. -/
def threeEvents : State :=
  { st 5 0 z with inputs := [.pulse .front, .packet [0x10#8, 0x00#8], .pulse .front] }

theorem witness_PulsesAreNeitherLostNorDoubled :
    (∀ e ∈ threeEvents.inputs.take 3, isReset e = false) ∧
      (match runSteps 3 threeEvents with
        | .next t => t.cnt0 = 1 ∧ takenInRun .front 3 threeEvents = 6
        | .fault _ => False
        | .refused _ => False) ∧
      neverWraps .front 3 threeEvents := by
  refine ⟨by decide, ⟨rfl, rfl⟩, ?_, ?_, ?_, trivial⟩ <;> decide

theorem witness_pulses_one_below_full :
    (st (2 ^ 32 - 2) (2 ^ 32 - 2) z).cnt0 + 1 < 2 ^ (st (2 ^ 32 - 2) (2 ^ 32 - 2) z).cfg.cntw ∧
      (st (2 ^ 32 - 2) (2 ^ 32 - 2) z).cnt1 + 1 < 2 ^ (st (2 ^ 32 - 2) (2 ^ 32 - 2) z).cfg.cntw := by decide

theorem witness_PulseCommutesWithOtherCommands :
    exchanges .front (.rdrst 1#8) = false ∧
      exec (.rdrst 1#8) (st 5 9 z) =
        .next { st 5 0 z with outputs := [.response [0#8, 0#8, 0#8, 0#8, 9#8]] } := ⟨by decide, rfl⟩

/-- For RDRST, RPM: the first reserved fan, the last legal one, the lengths around the legal one. -/
theorem witness_fan_and_length_clauses :
    2 ≤ (2#8).toNat ∧ (1#8).toNat < 2 ∧ ([] : List Byte).length ≠ 1 ∧ [0#8, 0#8].length ≠ 1 := by decide

/-- For RPMS, CLRALL, DISPLAY, CONFIG: the shortest packet that is too long. -/
theorem witness_longer_packet : [0#8] ≠ ([] : List Byte) := by decide

theorem witness_ScaleLaws : 1 < 2 ^ 1 ∧ 120 ≤ 121 := by decide

/-- For MAP: the lengths around the legal one. -/
theorem witness_MapDrivesBothChannelsAlike : [0#8].length ≠ 2 ∧ [0#8, 0#8, 0#8].length ≠ 2 := by decide

theorem witness_CurveProperties :
    (1999#16).toNat < 2000 ∧ (1999#16).toNat ≤ (2000#16).toNat ∧ (40000#32).toNat = 40000 ∧
      (1073#32).toNat ≤ 1073 := by decide

/-- For CLRDSP, WRSTR: the first display that does not exist, the last that does, and a row of the other one. -/
theorem witness_display_clauses : 2 ≤ (2#8).toNat ∧ (1#8).toNat ≤ 1 ∧ 7 < 16 ∧ 7 / 8 ≠ (1#8).toNat := by decide

/-- For SETDIG: the dot, value, address and length clauses at their boundaries. -/
theorem witness_SetdigWritesExactlyOneColumn :
    (1#8).toNat < 2 ∧ 2 ≤ (2#8).toNat ∧ (9#8).toNat < 10 ∧ 10 ≤ (10#8).toNat ∧
      (1 < (2#8).toNat ∨ 7 < (0#8).toNat) ∧ (1 < (0#8).toNat ∨ 7 < (8#8).toNat) ∧
      [0#8, 0#8, 0#8].length ≠ 4 ∧ [0#8, 0#8, 0#8, 0#8, 0#8].length ≠ 4 := by decide

/-- For the terms with a reserved operand: the first reserved value and the last. -/
theorem witness_ReservedOperandTermsAnswerErrOperand : 2 ≤ (2#8).toNat ∧ 2 ≤ (255#8).toNat := by decide

theorem witness_FixedFontEntriesAreShown :
    narrow.cfg.wf ∧ (1#8).toNat ≤ 1 ∧ (7#8).toNat ≤ 7 ∧ (1#8).toNat < 2 := by decide

theorem witness_SetdigOverwritesAndCommutes : ((0, 7) : Nat × Nat) ≠ (1, 7) := by decide

theorem witness_WrstrShowsTheDigitsOfTheText :
    (digitsOf [0x31#8, 0x2E#8])[0]? = some (1#8, true) ∧ (digitsOf [0x31#8, 0x2E#8])[1]? = none := by decide

theorem witness_WrstrDependsOnlyOnItsText : (1 : Nat) ≤ 1 ∧ 15 / 8 = 1 ∧ (0 : Nat) ≠ 1 := by decide

theorem witness_ConfigThenDisplayShowsTheMatrix :
    ∀ r ∈ ({ st 0 0 z with busResults := [.ok] } : State).busResults, r = .ok := by decide

theorem witness_ResetAbandonsWithoutResponse : decode [0x36#8] = .ok .config := by decide

end Sys2Proof.Tests
end

