-- ==== Sys2Proof/Proofs/WellFormedState.lean ====
section
/-! SUPPORT. The invariant `State.wf`, event by event. Only a pulse makes a counter larger, and it reduces modulo 2^CNTW
(R101); every other event keeps the parameters and leaves each counter as it was or at zero. -/

namespace Sys2Proof.Machine

/-! The parameters and the counters after a response and after a reset -/

@[simp] theorem respondOk_cfg (p : List Byte) (s : State) : (respondOk p s).cfg = s.cfg := rfl
@[simp] theorem respondOk_cnt0 (p : List Byte) (s : State) : (respondOk p s).cnt0 = s.cnt0 := rfl
@[simp] theorem respondOk_cnt1 (p : List Byte) (s : State) : (respondOk p s).cnt1 = s.cnt1 := rfl

@[simp] theorem abandon_cfg (a : Option Abandoned) (s : State) : (abandon a s).cfg = s.cfg := by
  obtain h | ⟨c, i, -, -, h⟩ := abandon_cases a s
  · rw [h]
  · rw [h, emitAll_cfg]

@[simp] theorem applyReset_cfg (a : Option Abandoned) (lost : List Fan) (s : State) :
    (applyReset a lost s).cfg = s.cfg := abandon_cfg a s
@[simp] theorem applyReset_cnt0 (a : Option Abandoned) (lost : List Fan) (s : State) :
    (applyReset a lost s).cnt0 = 0 := rfl
@[simp] theorem applyReset_cnt1 (a : Option Abandoned) (lost : List Fan) (s : State) :
    (applyReset a lost s).cnt1 = 0 := rfl

/-! What keeps the invariant -/

/-- Well-formedness is inherited by every state with the same parameters and no larger counters. -/
theorem wf_of_cnt_le {s t : State} (hs : s.wf) (hcfg : t.cfg = s.cfg) (h0 : t.cnt0 ≤ s.cnt0) (h1 : t.cnt1 ≤ s.cnt1) :
    t.wf := by
  obtain ⟨hlegal, hfront, hrear⟩ := hs
  rw [State.wf, hcfg]
  exact ⟨hlegal, h0.trans_lt hfront, h1.trans_lt hrear⟩

theorem setCnt_wf (f : Fan) {v : Nat} {s : State} (hs : s.wf) (hv : v < 2 ^ s.cfg.cntw) : (setCnt f v s).wf := by
  obtain ⟨hlegal, hfront, hrear⟩ := hs
  cases f with
  | front => exact ⟨hlegal, hv, hrear⟩
  | rear => exact ⟨hlegal, hfront, hv⟩

theorem setInputs_wf (rest : List Event) {s : State} (hs : s.wf) : (setInputs rest s).wf := hs

/-- The wrap of R101 keeps a counter within its CNTW bits. -/
theorem pulse_wf (f : Fan) {s : State} (hs : s.wf) : (pulse f s).wf :=
  setCnt_wf f hs (Nat.mod_lt _ (Nat.two_pow_pos _))

theorem takeError_wf (e : PacketError) {s : State} (hs : s.wf) : (takeError e s).wf := hs

/-- A command only zeroes counters and never counts up, whether its operands are legal or reserved. -/
theorem exec_wf {i : Instr} {s t : State} (hs : s.wf) (h : exec i s = .next t) : t.wf := by
  obtain ⟨p, u, hu, hcfg, -, -, -, -, h0, h1⟩ | ⟨-, herr⟩ := exec_cases i s
  · obtain rfl := Host.Outcome.next.inj (hu.symm.trans h)
    have hle0 : u.cnt0 ≤ s.cnt0 := by omega
    have hle1 : u.cnt1 ≤ s.cnt1 := by omega
    exact wf_of_cnt_le hs (by simp [hcfg]) (by simpa using hle0) (by simpa using hle1)
  · obtain rfl := Host.Outcome.next.inj (herr.symm.trans h)
    exact takeError_wf .errOperand hs

theorem applyReset_wf (a : Option Abandoned) (lost : List Fan) {s : State} (hs : s.wf) : (applyReset a lost s).wf :=
  wf_of_cnt_le hs (by simp) (by simp) (by simp)

/-- Settles O3, by the event at the head of the schedule: each of the five outcomes of a step keeps the invariant. -/
theorem stepKeepsWellFormedState : Obligations.StepKeepsWellFormedState := by
  intro s t hs hstep
  obtain ⟨-, rfl⟩ | ⟨f, rest, -, rfl⟩ | ⟨c, rest, i, -, -, hexec⟩ | ⟨c, rest, e, -, -, rfl⟩ |
    ⟨a, lost, rest, -, rfl⟩ := step_cases s t hstep
  · exact hs
  · exact pulse_wf f (setInputs_wf rest hs)
  · exact exec_wf (setInputs_wf rest hs) hexec
  · exact takeError_wf e (setInputs_wf rest hs)
  · exact applyReset_wf a lost (setInputs_wf rest hs)

end Sys2Proof.Machine
end

/-! SUPPORT. The parameters of the instance (R24) along every event, and the state right after reset (R31, R32). The
parameters reach a step's result through `setCnt`, the output operations and the matrix only, none of which writes them. -/

namespace Sys2Proof.Machine

/-! What keeps the parameters -/

@[simp] theorem pulse_cfg (f : Fan) (s : State) : (pulse f s).cfg = s.cfg := setCnt_cfg f _ s

@[simp] theorem takeError_cfg (e : PacketError) (s : State) : (takeError e s).cfg = s.cfg := by
  rw [takeError_eq]

/-- No command writes the parameters, whether its operands are legal or reserved. -/
theorem exec_cfg {i : Instr} {s t : State} (h : exec i s = .next t) : t.cfg = s.cfg := by
  obtain ⟨p, u, hdone, hcfg, -⟩ | ⟨-, herr⟩ := exec_cases i s
  · obtain rfl := Host.Outcome.next.inj (hdone.symm.trans h)
    rw [respondOk_cfg, emitAll_cfg, hcfg]
  · obtain rfl := Host.Outcome.next.inj (herr.symm.trans h)
    exact takeError_cfg .errOperand s

/-- Settles O8, by the event at the head of the schedule: taking the event off the schedule keeps the parameters, and so
does each of the five outcomes of a step. -/
theorem noStepChangesTheParameters : Obligations.NoStepChangesTheParameters := by
  intro s t hstep
  obtain ⟨-, rfl⟩ | ⟨f, rest, -, rfl⟩ | ⟨c, rest, i, -, -, hexec⟩ | ⟨c, rest, e, -, -, rfl⟩ |
    ⟨a, lost, rest, -, rfl⟩ := step_cases s t hstep
  · rfl
  · rw [pulse_cfg, setInputs_cfg]
  · rw [exec_cfg hexec, setInputs_cfg]
  · rw [takeError_cfg, setInputs_cfg]
  · rw [applyReset_cfg, setInputs_cfg]

/-! The state right after reset -/

/-- Settles O1: the counters are reset to 0 by definition, and the matrix after reset is `zeroMatrix`, whose every row
reads 0x00. -/
theorem resetClearsCountersAndMatrix : Obligations.ResetClearsCountersAndMatrix :=
  ⟨rfl, rfl, fun r _ => readRow_zeroMatrix r⟩

end Sys2Proof.Machine

/-! SUPPORT. What a command does to each part of the state, said once: the exact counters, whose matrix it is, and which
action it emits. Then the separation of the units (R46, R164). -/

namespace Sys2Proof.Machine

/-! The commands with an operand check, by what the check finds -/

theorem exec_rdrst_of_fanOf {x : Byte} {f : Fan} (h : fanOf x = some f) (s : State) :
    exec (.rdrst x) s = .next (respondOk (beBytes s.cfg.cntb (getCnt f s)) (setCnt f 0 s)) := by
  simp only [exec, execRdrst, h, exchange_eq]

theorem exec_rdrst_reserved {x : Byte} (h : fanOf x = none) (s : State) :
    exec (.rdrst x) s = .next (takeError .errOperand s) := by
  simp only [exec, execRdrst, h]

theorem exec_rpm_of_fanOf {x : Byte} {f : Fan} (h : fanOf x = some f) (s : State) :
    exec (.rpm x) s = .next (respondOk (beBytes s.cfg.rpmb (scale (getCnt f s))) (setCnt f 0 s)) := by
  simp only [exec, execRpm, h, exchange_eq]

theorem exec_rpm_reserved {x : Byte} (h : fanOf x = none) (s : State) :
    exec (.rpm x) s = .next (takeError .errOperand s) := by
  simp only [exec, execRpm, h]

theorem exec_setdig_of_dotOf {dot : Byte} {lit : Bool} (h : dotOf dot = some lit) (d p v : Byte) (s : State) :
    exec (.setdig d p v dot) s =
      .next (respondOk [] (setMatrix (setDigit s.cfg d.toNat p.toNat v lit s.matrix) s)) := by
  simp only [exec, execSetdig, h]

theorem exec_setdig_reserved {dot : Byte} (h : dotOf dot = none) (d p v : Byte) (s : State) :
    exec (.setdig d p v dot) s = .next (takeError .errOperand s) := by
  simp only [exec, execSetdig, h]

/-! The block's own state after a command -/

/-- The state with the counters a command leaves (R102 to R104) and the matrix `m`, before anything is emitted. -/
def withEffect (i : Instr) (m : Matrix) (s : State) : State :=
  { s with
    cnt0 := if exchanges .front i then 0 else s.cnt0
    cnt1 := if exchanges .rear i then 0 else s.cnt1
    matrix := m }

/-- A command that exchanges neither counter leaves both. -/
theorem withEffect_of_no_exchange {i : Instr} (h : ∀ f, exchanges f i = false) (m : Matrix) (s : State) :
    withEffect i m s = setMatrix m s := by
  simp [withEffect, h, setMatrix]

/-- A command that exchanges one counter zeroes it and leaves the other. -/
theorem withEffect_of_one_exchange {i : Instr} {f : Fan} (h : ∀ g, exchanges g i = (some f == some g)) (s : State) :
    withEffect i s.matrix s = setCnt f 0 s := by
  cases f <;> simp [withEffect, h]

/-- The form common to RDRST and RPM: the operand names the counter to exchange, or is reserved and none is exchanged. -/
theorem exec_eq_withEffect_of_fanOf {i : Instr} {x : Byte} {s : State} (hex : ∀ g, exchanges g i = (fanOf x == some g))
    (hsome : ∀ f, fanOf x = some f → ∃ payload, exec i s = .next (respondOk payload (setCnt f 0 s)))
    (hnone : fanOf x = none → exec i s = .next (takeError .errOperand s)) :
    ∃ packet, exec i s = .next (emit (.response packet) (withEffect i s.matrix s)) := by
  cases hx : fanOf x with
  | none =>
    rw [withEffect_of_no_exchange fun g => by rw [hex g, hx]; rfl]
    exact ⟨_, hnone hx⟩
  | some f =>
    obtain ⟨payload, hdone⟩ := hsome f hx
    rw [withEffect_of_one_exchange (f := f) fun g => by rw [hex g, hx]]
    exact ⟨_, hdone⟩

theorem getCnt_withEffect (f : Fan) (i : Instr) (m : Matrix) (s : State) :
    getCnt f (withEffect i m s) = if exchanges f i then 0 else getCnt f s := by
  cases f <;> rfl

/-- Every command has this form, also with a reserved operand: the exchanges it names, a matrix that only the matrix
commands change, its actions, and one response. -/
theorem exec_eq_withEffect (i : Instr) (s : State) :
    ∃ m packet, exec i s = .next (emit (.response packet) (emitAll (commandActions i s) (withEffect i m s))) ∧
      (m = s.matrix ∨ i = .clrall ∨ (∃ d, i = .clrdsp d) ∨ (∃ d p v dot, i = .setdig d p v dot) ∨
        ∃ d text, i = .wrstr d text) := by
  cases i with
  | rdrst x =>
    obtain ⟨packet, hdone⟩ := exec_eq_withEffect_of_fanOf (i := .rdrst x) (fun _ => rfl)
      (fun f hx => ⟨_, exec_rdrst_of_fanOf hx s⟩) (fun hx => exec_rdrst_reserved hx s)
    exact ⟨s.matrix, packet, hdone, .inl rfl⟩
  | rpm x =>
    obtain ⟨packet, hdone⟩ := exec_eq_withEffect_of_fanOf (i := .rpm x) (fun _ => rfl)
      (fun f hx => ⟨_, exec_rpm_of_fanOf hx s⟩) (fun hx => exec_rpm_reserved hx s)
    exact ⟨s.matrix, packet, hdone, .inl rfl⟩
  | rpms => exact ⟨s.matrix, _, rfl, .inl rfl⟩
  | map raw => exact ⟨s.matrix, _, rfl, .inl rfl⟩
  | clrall => exact ⟨clearAll s.matrix, _, rfl, .inr (.inl rfl)⟩
  | clrdsp d => exact ⟨clearDisplay d.toNat s.matrix, _, rfl, .inr (.inr (.inl ⟨d, rfl⟩))⟩
  | setdig d p v dot =>
    have isMatrixCommand : ∃ d' p' v' dot', Instr.setdig d p v dot = .setdig d' p' v' dot' := ⟨d, p, v, dot, rfl⟩
    cases hdot : dotOf dot with
    | none => exact ⟨s.matrix, _, exec_setdig_reserved hdot d p v s, .inl rfl⟩
    | some lit => exact ⟨_, _, exec_setdig_of_dotOf hdot d p v s, .inr (.inr (.inr (.inl isMatrixCommand)))⟩
  | wrstr d text =>
    exact ⟨writeString s.cfg d.toNat text s.matrix, _, rfl, .inr (.inr (.inr (.inr ⟨d, text, rfl⟩)))⟩
  | display => exact ⟨s.matrix, _, rfl, .inl rfl⟩
  | setbrt level => exact ⟨s.matrix, _, rfl, .inl rfl⟩
  | config => exact ⟨s.matrix, _, rfl, .inl rfl⟩

/-! What each part of the state is after a command -/

/-- A command zeroes the counters it exchanges and leaves the others (R54). -/
theorem getCnt_exec (f : Fan) {i : Instr} {s t : State} (h : exec i s = .next t) :
    getCnt f t = if exchanges f i then 0 else getCnt f s := by
  obtain ⟨m, packet, hdone, -⟩ := exec_eq_withEffect i s
  obtain rfl := Host.Outcome.next.inj (hdone.symm.trans h)
  rw [getCnt_emit, getCnt_emitAll, getCnt_withEffect]

/-- No command reads or writes the schedule. -/
theorem exec_inputs {i : Instr} {s t : State} (h : exec i s = .next t) : t.inputs = s.inputs := by
  obtain ⟨m, packet, hdone, -⟩ := exec_eq_withEffect i s
  obtain rfl := Host.Outcome.next.inj (hdone.symm.trans h)
  rw [emit_inputs, emitAll_inputs, withEffect]

theorem exec_matrix {i : Instr} {s t : State} (h : exec i s = .next t) :
    t.matrix = s.matrix ∨ i = .clrall ∨ (∃ d, i = .clrdsp d) ∨ (∃ d p v dot, i = .setdig d p v dot) ∨
      ∃ d text, i = .wrstr d text := by
  obtain ⟨m, packet, hdone, hm⟩ := exec_eq_withEffect i s
  obtain rfl := Host.Outcome.next.inj (hdone.symm.trans h)
  rw [emit_matrix, emitAll_matrix]
  exact hm

/-- A command appends its actions and one response (R43, R60). -/
theorem exec_outputs {i : Instr} {s t : State} (h : exec i s = .next t) :
    ∃ packet, t.outputs = s.outputs ++ commandActions i s ++ [.response packet] := by
  obtain ⟨m, packet, hdone, -⟩ := exec_eq_withEffect i s
  obtain rfl := Host.Outcome.next.inj (hdone.symm.trans h)
  exact ⟨packet, by rw [emit_outputs, emitAll_outputs, withEffect]⟩

/-- What a command adds to the outputs, its response apart, is one of its actions. -/
theorem mem_outputs_exec {i : Instr} {s t : State} (h : exec i s = .next t) {o : Output} (ho : o ∈ t.outputs) :
    o ∈ s.outputs ∨ o ∈ commandActions i s ∨ isResponse o = true := by
  obtain ⟨packet, hout⟩ := exec_outputs h
  rw [hout, List.append_assoc, List.mem_append, List.mem_append, List.mem_singleton] at ho
  exact ho.imp_right (Or.imp_right fun e => by rw [e, isResponse])

/-! The environment moves with bus transactions only -/

/-- Actions that are no bus transaction reach neither the chip nor the transmitter. -/
theorem emitAll_env_of_no_busTx {os : List Output} (h : ∀ a bs, .busTx a bs ∉ os) (s : State) :
    (emitAll os s).chip = s.chip ∧ (emitAll os s).busResults = s.busResults := by
  induction os generalizing s with
  | nil => exact ⟨rfl, rfl⟩
  | cons o os ih =>
    obtain ⟨hchip, hres⟩ := ih (fun a bs hmem => h a bs (List.mem_cons_of_mem o hmem)) (emit o s)
    rw [emitAll_cons, hchip, hres]
    cases o with
    | busTx a bs => exact absurd List.mem_cons_self (h a bs)
    | pwmSet ch duty => exact ⟨rfl, rfl⟩
    | response packet => exact ⟨rfl, rfl⟩

theorem exec_env_of_no_busTx {i : Instr} {s t : State} (h : exec i s = .next t)
    (hno : ∀ a bs, .busTx a bs ∉ commandActions i s) : t.chip = s.chip ∧ t.busResults = s.busResults := by
  obtain ⟨m, packet, hdone, -⟩ := exec_eq_withEffect i s
  obtain rfl := Host.Outcome.next.inj (hdone.symm.trans h)
  exact emitAll_env_of_no_busTx hno (withEffect i m s)

/-! Which command emits which action -/

/-- Only MAP calls the PWM sink (R46). -/
theorem pwmSet_mem_commandActions {i : Instr} {s : State} {ch : Fin 2} {duty : BitVec 32}
    (h : .pwmSet ch duty ∈ commandActions i s) : ∃ raw, i = .map raw := by
  cases i with
  | map raw => exact ⟨raw, rfl⟩
  | _ => simp [commandActions, displayActions, setbrtActions, configActions] at h

/-- Only the bus commands transmit (R164). -/
theorem busTx_mem_commandActions {i : Instr} {s : State} {a : Nat} {bs : List Byte}
    (h : .busTx a bs ∈ commandActions i s) : i = .display ∨ (∃ level, i = .setbrt level) ∨ i = .config := by
  cases i with
  | display => exact .inl rfl
  | setbrt level => exact .inr (.inl ⟨level, rfl⟩)
  | config => exact .inr (.inr rfl)
  | _ => simp [commandActions, mapActions] at h

/-- Only RDRST, RPM and RPMS exchange a counter (R102 to R104). -/
theorem exchanges_eq_false {i : Instr} (hrdrst : ∀ x, i ≠ .rdrst x) (hrpm : ∀ x, i ≠ .rpm x) (hrpms : i ≠ .rpms)
    (f : Fan) : exchanges f i = false := by
  cases i with
  | rdrst x => exact absurd rfl (hrdrst x)
  | rpm x => exact absurd rfl (hrpm x)
  | rpms => exact absurd rfl hrpms
  | _ => rfl

/-- Settles O9: each clause is the lemma above about its part of the state, read for the commands that the clause leaves
in. -/
theorem unitsTouchDisjointState : Obligations.UnitsTouchDisjointState := by
  intro i s t h
  refine ⟨exec_cfg h, exec_inputs h, fun hrdrst hrpm hrpms => ?_, fun hclrall hclrdsp hsetdig hwrstr => ?_,
    fun hmap ch duty hmem => ?_, fun hdisplay hsetbrt hconfig => ?_⟩
  · have kept (f : Fan) : getCnt f t = getCnt f s := by
      rw [getCnt_exec f h, exchanges_eq_false hrdrst hrpm hrpms f, if_neg Bool.false_ne_true]
    exact ⟨kept .front, kept .rear⟩
  · obtain hkept | hi | ⟨d, hi⟩ | ⟨d, p, v, dot, hi⟩ | ⟨d, text, hi⟩ := exec_matrix h
    · exact hkept
    · exact absurd hi hclrall
    · exact absurd hi (hclrdsp d)
    · exact absurd hi (hsetdig d p v dot)
    · exact absurd hi (hwrstr d text)
  · obtain hold | hact | hresp := mem_outputs_exec h hmem
    · exact hold
    · obtain ⟨raw, hi⟩ := pwmSet_mem_commandActions hact
      exact absurd hi (hmap raw)
    · cases hresp
  · have noBusTx : ∀ a bs, .busTx a bs ∉ commandActions i s := by
      intro a bs hact
      obtain hi | ⟨level, hi⟩ | hi := busTx_mem_commandActions hact
      · exact hdisplay hi
      · exact hsetbrt level hi
      · exact hconfig hi
    obtain ⟨hchip, hres⟩ := exec_env_of_no_busTx h noBusTx
    refine ⟨hchip, hres, fun a bs hmem => ?_⟩
    obtain hold | hact | hresp := mem_outputs_exec h hmem
    · exact hold
    · exact absurd hact (noBusTx a bs)
    · cases hresp

end Sys2Proof.Machine

/-! SUPPORT. The conservation of pulses (R58). One step moves a counter's value into the exchange's answer or adds a pulse
to it, never both and never neither; a run adds the steps up. -/

namespace Sys2Proof.Machine

/-! One step, by the event at the head of the schedule -/

theorem step_of_pulse {f : Fan} {rest : List Event} {s : State} (h : s.inputs = .pulse f :: rest) :
    step s = .next (pulse f (setInputs rest s)) := by
  simp only [step, h]

theorem step_of_packet {c : List Byte} {i : Instr} {rest : List Event} {s : State} (h : s.inputs = .packet c :: rest)
    (hc : decode c = .ok i) : step s = exec i (setInputs rest s) := by
  simp only [step, h, hc]

/-- A pulse adds one to its own counter, modulo 2^CNTW, and leaves the other (R100, R101). -/
theorem getCnt_pulse (f g : Fan) (s : State) :
    getCnt f (pulse g s) = if g = f then (getCnt f s + 1) % 2 ^ s.cfg.cntw else getCnt f s := by
  by_cases hgf : g = f
  · subst hgf
    rw [if_pos rfl, pulse, getCnt_setCnt_self]
  · rw [if_neg hgf, pulse, getCnt_setCnt_ne g f _ s (Ne.symm hgf)]

@[simp] theorem getCnt_takeError (f : Fan) (e : PacketError) (s : State) : getCnt f (takeError e s) = getCnt f s :=
  getCnt_emit f _ s

/-- A step uses up the head of the schedule. -/
theorem step_inputs {s t : State} (h : step s = .next t) : t.inputs = s.inputs.tail := by
  obtain ⟨hin, rfl⟩ | ⟨f, rest, hin, rfl⟩ | ⟨c, rest, i, hin, -, hexec⟩ | ⟨c, rest, e, hin, -, rfl⟩ |
    ⟨a, lost, rest, hin, rfl⟩ := step_cases s t h
  · rw [hin, List.tail_nil]
  · rw [hin, pulse, setCnt_inputs, setInputs_inputs, List.tail_cons]
  · rw [hin, exec_inputs hexec, setInputs_inputs, List.tail_cons]
  · rw [hin, takeError_eq, List.tail_cons, setInputs_inputs]
  · obtain hkept | ⟨c, i, -, -, hsent⟩ := abandon_cases a (setInputs rest s)
    · rw [hin, applyReset, hkept, setInputs_inputs, List.tail_cons]
    · rw [hin, applyReset, hsent, emitAll_inputs, setInputs_inputs, List.tail_cons]

/-! The balance of one step -/

/-- What a step takes out of CNT[f] and what it leaves there: together the old value, or the old value counted up when the
event is a pulse of fan `f`. -/
theorem takenNext_add_getCnt {f : Fan} {s t : State} (hreset : ∀ e ∈ s.inputs.head?, isReset e = false)
    (h : step s = .next t) :
    takenNext f s + getCnt f t =
      if s.inputs.head? = some (.pulse f) then (getCnt f s + 1) % 2 ^ s.cfg.cntw else getCnt f s := by
  obtain ⟨hin, rfl⟩ | ⟨g, rest, hin, rfl⟩ | ⟨c, rest, i, hin, hc, hexec⟩ | ⟨c, rest, e, hin, hc, rfl⟩ |
    ⟨a, lost, rest, hin, rfl⟩ := step_cases s t h
  · simp [takenNext, hin]
  · simp [takenNext, hin, eventExchanges, getCnt_pulse]
  · have hcnt := getCnt_exec f hexec
    rw [getCnt_setInputs] at hcnt
    cases hx : exchanges f i <;> simp [takenNext, hin, eventExchanges, hc, hx, hcnt]
  · simp [takenNext, hin, eventExchanges, hc]
  · exact absurd (hreset (.reset a lost) (by simp [hin])) (by simp [isReset])

/-- The pulses of a schedule, the head counted apart. -/
theorem pulseCount_take_succ (f : Fan) (k : Nat) (es : List Event) :
    pulseCount f (es.take (k + 1)) =
      (if es.head? = some (.pulse f) then 1 else 0) + pulseCount f (es.tail.take k) := by
  cases es with
  | nil => simp [pulseCount]
  | cons e es => simp [pulseCount, List.countP_cons, Nat.add_comm]

/-- One step conserves pulses modulo 2^CNTW. -/
theorem takenNext_add_getCnt_modEq {f : Fan} {s t : State} (hreset : ∀ e ∈ s.inputs.head?, isReset e = false)
    (h : step s = .next t) :
    takenNext f s + getCnt f t ≡ getCnt f s + (if s.inputs.head? = some (.pulse f) then 1 else 0)
      [MOD 2 ^ s.cfg.cntw] := by
  rw [takenNext_add_getCnt hreset h]
  split
  · exact Nat.mod_modEq _ _
  · rfl

/-- One step conserves pulses exactly, unless a pulse meets a full counter. -/
theorem takenNext_add_getCnt_eq {f : Fan} {s t : State} (hreset : ∀ e ∈ s.inputs.head?, isReset e = false)
    (h : step s = .next t) (hfull : s.inputs.head? = some (.pulse f) → getCnt f s + 1 < 2 ^ s.cfg.cntw) :
    takenNext f s + getCnt f t = getCnt f s + (if s.inputs.head? = some (.pulse f) then 1 else 0) := by
  rw [takenNext_add_getCnt hreset h]
  split
  · next hpulse => exact Nat.mod_eq_of_lt (hfull hpulse)
  · rfl

/-! A run is its first step and the rest -/

theorem runSteps_succ_of_step {s t : State} (h : step s = .next t) (k : Nat) : runSteps (k + 1) s = runSteps k t := by
  simp only [runSteps, h]

theorem runSteps_succ_eq_next {k : Nat} {s t : State} (h : runSteps (k + 1) s = .next t) :
    ∃ u, step s = .next u ∧ runSteps k u = .next t := by
  rw [runSteps] at h
  split at h
  · next u hstep => exact ⟨u, hstep, h⟩
  · cases h
  · cases h

theorem takenInRun_succ_of_step {s t : State} (h : step s = .next t) (f : Fan) (k : Nat) :
    takenInRun f (k + 1) s = takenNext f s + takenInRun f k t := by
  simp only [takenInRun, h]

theorem neverWraps_succ_of_step {s t : State} (h : step s = .next t) (f : Fan) (k : Nat) :
    neverWraps f (k + 1) s ↔
      (s.inputs.head? = some (.pulse f) → getCnt f s + 1 < 2 ^ s.cfg.cntw) ∧ neverWraps f k t := by
  simp only [neverWraps, h]

/-! The balance of a run -/

/-- A run without a reset, split off its first step. -/
theorem no_reset_head_and_tail {k : Nat} {es : List Event} (h : ∀ e ∈ es.take (k + 1), isReset e = false) :
    (∀ e ∈ es.head?, isReset e = false) ∧ ∀ e ∈ es.tail.take k, isReset e = false := by
  cases es with
  | nil => simp
  | cons e es => simpa using h

/-- Along a run without a reset no pulse is lost or counted twice, modulo 2^CNTW (R58, R101). -/
theorem takenInRun_add_getCnt_modEq {f : Fan} {k : Nat} {s t : State}
    (hreset : ∀ e ∈ s.inputs.take k, isReset e = false) (h : runSteps k s = .next t) :
    takenInRun f k s + getCnt f t ≡ getCnt f s + pulseCount f (s.inputs.take k) [MOD 2 ^ s.cfg.cntw] := by
  induction k generalizing s with
  | zero =>
    obtain rfl := Host.Outcome.next.inj h
    simp [takenInRun, pulseCount, Nat.ModEq]
  | succ k ih =>
    obtain ⟨u, hstep, hrun⟩ := runSteps_succ_eq_next h
    obtain ⟨hhead, htail⟩ := no_reset_head_and_tail hreset
    have hone := takenNext_add_getCnt_modEq (f := f) hhead hstep
    have hrest := ih (step_inputs hstep ▸ htail) hrun
    rw [noStepChangesTheParameters s u hstep, step_inputs hstep] at hrest
    rw [takenInRun_succ_of_step hstep, pulseCount_take_succ, Nat.add_assoc, ← Nat.add_assoc (getCnt f s)]
    calc takenNext f s + (takenInRun f k u + getCnt f t)
        ≡ takenNext f s + (getCnt f u + pulseCount f (s.inputs.tail.take k)) [MOD 2 ^ s.cfg.cntw] :=
          hrest.add_left _
      _ = takenNext f s + getCnt f u + pulseCount f (s.inputs.tail.take k) := (Nat.add_assoc _ _ _).symm
      _ ≡ _ [MOD 2 ^ s.cfg.cntw] := hone.add_right _

/-- Along a run without a reset, in which no pulse meets a full counter, the balance is exact (R58). -/
theorem takenInRun_add_getCnt_eq {f : Fan} {k : Nat} {s t : State}
    (hreset : ∀ e ∈ s.inputs.take k, isReset e = false) (h : runSteps k s = .next t) (hwrap : neverWraps f k s) :
    takenInRun f k s + getCnt f t = getCnt f s + pulseCount f (s.inputs.take k) := by
  induction k generalizing s with
  | zero =>
    obtain rfl := Host.Outcome.next.inj h
    simp [takenInRun, pulseCount]
  | succ k ih =>
    obtain ⟨u, hstep, hrun⟩ := runSteps_succ_eq_next h
    obtain ⟨hhead, htail⟩ := no_reset_head_and_tail hreset
    obtain ⟨hfull, hwrapRest⟩ := (neverWraps_succ_of_step hstep f k).mp hwrap
    have hone := takenNext_add_getCnt_eq hhead hstep hfull
    have hrest := ih (step_inputs hstep ▸ htail) hrun hwrapRest
    rw [step_inputs hstep] at hrest
    rw [takenInRun_succ_of_step hstep, pulseCount_take_succ]
    omega

/-! A pulse next to an exchange -/

/-- A pulse at a counter that is not full adds one to it (R100). -/
theorem pulse_of_not_full {f : Fan} {s : State} (h : getCnt f s + 1 < 2 ^ s.cfg.cntw) :
    pulse f s = setCnt f (getCnt f s + 1) s := by
  rw [pulse, Nat.mod_eq_of_lt h]

theorem setCnt_setCnt (f : Fan) (v w : Nat) (s : State) : setCnt f v (setCnt f w s) = setCnt f v s := by
  cases f <;> rfl

theorem decode_rdrst {x : Byte} {f : Fan} (h : fanOf x = some f) : decode [0x10#8, x] = .ok (.rdrst x) := by
  have hlegal : legalFan x = true := by rw [← fanOf_isSome, h, Option.isSome_some]
  have hdecode : decode [0x10#8, x] = if legalFan x then .ok (.rdrst x) else .error .errOperand := rfl
  rw [hdecode, if_pos hlegal]

/-- A pulse just before RDRST is in the value it returns (R58). -/
theorem runSteps_pulse_rdrst {f : Fan} {x : Byte} (hx : fanOf x = some f) {s : State} (rest : List Event)
    (hfull : getCnt f s + 1 < 2 ^ s.cfg.cntw) :
    runSteps 2 (setInputs (.pulse f :: .packet [0x10#8, x] :: rest) s) =
      .next (respondOk (beBytes s.cfg.cntb (getCnt f s + 1)) (setCnt f 0 (setInputs rest s))) := by
  have hpulse := step_of_pulse (setInputs_inputs (.pulse f :: .packet [0x10#8, x] :: rest) s)
  rw [pulse_of_not_full (by simpa using hfull)] at hpulse
  rw [runSteps_succ_of_step hpulse, runSteps, step_of_packet (setCnt_inputs f _ _) (decode_rdrst hx),
    exec_rdrst_of_fanOf hx]
  cases f <;> rfl

/-- A pulse just after RDRST is not in the value it returns but is left for the next exchange (R58). -/
theorem runSteps_rdrst_pulse {f : Fan} {x : Byte} (hx : fanOf x = some f) {s : State} (rest : List Event)
    (hone : 1 < 2 ^ s.cfg.cntw) :
    runSteps 2 (setInputs (.packet [0x10#8, x] :: .pulse f :: rest) s) =
      .next (respondOk (beBytes s.cfg.cntb (getCnt f s)) (setCnt f 1 (setInputs rest s))) := by
  have hexchange := (step_of_packet (setInputs_inputs (.packet [0x10#8, x] :: .pulse f :: rest) s)
    (decode_rdrst hx)).trans (exec_rdrst_of_fanOf hx _)
  rw [runSteps_succ_of_step hexchange, runSteps, step_of_pulse (f := f) (rest := rest) (by simp [respondOk])]
  cases f <;> simp [runSteps, pulse, respondOk_eq, setInputs, getCnt, Nat.mod_eq_of_lt hone]

/-- Settles O19: the balance of a run, modulo 2^CNTW and exactly, and for each fan the two orders of a pulse and an
exchange. -/
theorem pulsesAreNeitherLostNorDoubled : Obligations.PulsesAreNeitherLostNorDoubled := by
  refine ⟨fun f k s t hreset hrun => ⟨takenInRun_add_getCnt_modEq hreset hrun, takenInRun_add_getCnt_eq hreset hrun⟩,
    fun s rest hfull => ⟨?_, ?_⟩, fun s rest hfull => ⟨?_, ?_⟩⟩
  · exact runSteps_pulse_rdrst (f := .front) rfl rest hfull
  · exact runSteps_rdrst_pulse (f := .front) rfl rest (Nat.lt_of_le_of_lt (Nat.le_add_left 1 _) hfull)
  · exact runSteps_pulse_rdrst (f := .rear) rfl rest hfull
  · exact runSteps_rdrst_pulse (f := .rear) rfl rest (Nat.lt_of_le_of_lt (Nat.le_add_left 1 _) hfull)

end Sys2Proof.Machine

/-! SUPPORT. The byte order of the multi-byte fields (R50): `beBytes` and `beValue` are inverse, and every payload has room
for its number. -/

namespace Sys2Proof.Machine

/-! Big-endian bytes and their value -/

theorem beValue_concat (bs : List Byte) (b : Byte) : beValue (bs ++ [b]) = 256 * beValue bs + b.toNat :=
  List.foldl_concat _ _ _ _

/-- Reading back what was written, for a number that fits its bytes. -/
theorem beValue_beBytes {n v : Nat} (h : v < 256 ^ n) : beValue (beBytes n v) = v := by
  induction n generalizing v with
  | zero =>
    have hv : v = 0 := by simpa using h
    rw [hv]
    rfl
  | succ n ih =>
    have hdiv : v / 256 < 256 ^ n := Nat.div_lt_of_lt_mul (by rwa [← Nat.pow_succ'])
    rw [beBytes, beValue_concat, ih hdiv, BitVec.toNat_ofNat]
    exact Nat.div_add_mod v 256

/-- `ceil(w / 8)` bytes hold every `w`-bit number. -/
theorem lt_pow_bytes {v w : Nat} (h : v < 2 ^ w) : v < 256 ^ ((w + 7) / 8) := by
  calc v < 2 ^ w := h
    _ ≤ 2 ^ (8 * ((w + 7) / 8)) := Nat.pow_le_pow_right (by decide) (by omega)
    _ = 256 ^ ((w + 7) / 8) := Nat.pow_mul 2 8 _

/-- The scaled count fits RPMW = CNTW + 5 bits (R105). -/
theorem scale_lt {v w : Nat} (h : v < 2 ^ w) : scale v < 2 ^ (w + 5) := by
  rw [scale, Nat.pow_add]
  omega

theorem beValue_count {cfg : Config} {v : Nat} (h : v < 2 ^ cfg.cntw) : beValue (beBytes cfg.cntb v) = v :=
  beValue_beBytes (lt_pow_bytes h)

theorem beValue_rpm {cfg : Config} {v : Nat} (h : v < 2 ^ cfg.cntw) : beValue (beBytes cfg.rpmb (scale v)) = scale v :=
  beValue_beBytes (lt_pow_bytes (scale_lt h))

theorem beValue_duty (duty : BitVec 32) : beValue (beBytes 4 duty.toNat) = duty.toNat :=
  beValue_beBytes (lt_pow_bytes duty.isLt)

/-- The 16-bit operand has its first byte as the more significant one (R72). -/
theorem toNat_append_bytes (hi lo : Byte) : (hi ++ lo).toNat = 256 * hi.toNat + lo.toNat := by
  rw [BitVec.toNat_append, ← Nat.shiftLeft_add_eq_or_of_lt lo.isLt, Nat.shiftLeft_eq, Nat.mul_comm]

/-! The outputs after a response -/

@[simp] theorem respondOk_outputs (p : List Byte) (s : State) :
    (respondOk p s).outputs = s.outputs ++ [.response (0x00#8 :: p)] := rfl

/-- Settles O16: each payload is `beBytes` of a number that fits it, so it reads as that number. -/
theorem multiByteFieldsAreBigEndian : Obligations.MultiByteFieldsAreBigEndian := by
  refine ⟨fun n v => ⟨beBytes_length n v, beValue_beBytes⟩, fun hi lo => ⟨hi ++ lo, rfl, toNat_append_bytes hi lo⟩,
    fun f x s hx hcnt => ⟨?_, ?_⟩, fun s h0 h1 => ?_, fun raw s => ?_⟩
  · exact ⟨_, _, exec_rdrst_of_fanOf hx s, by rw [respondOk_outputs, setCnt_outputs]; rfl, beBytes_length _ _,
      beValue_count hcnt⟩
  · exact ⟨_, _, exec_rpm_of_fanOf hx s, by rw [respondOk_outputs, setCnt_outputs]; rfl, beBytes_length _ _,
      beValue_rpm hcnt⟩
  · exact ⟨_, _, _, rfl, rfl, beBytes_length _ _, beBytes_length _ _, beValue_rpm h0, beValue_rpm h1⟩
  · refine ⟨_, curve s.cfg.period raw, _, rfl, ?_, beBytes_length _ _, beValue_duty _⟩
    rw [respondOk_outputs, emitAll_outputs, mapActions, List.append_assoc]
    rfl

end Sys2Proof.Machine

/-! SUPPORT. The decoder and the encoder are inverse (R71 to R73). Both turn on one fact about the formats: a packet's
operand bytes assemble to an instruction exactly when the instruction's packet carries those bytes. -/

namespace Sys2Proof

/-! The bytes each format reads, recovered from the instruction it makes (R71) -/

theorem eq_of_operandsF0 {i j : Instr} {args : List Byte} (h : operandsF0 j args = some i) : args = [] ∧ i = j :=
  match args, h with
  | [], h => ⟨rfl, (Option.some.inj h).symm⟩

theorem eq_of_operandsF1 {make : Byte → Instr} {i : Instr} {args : List Byte} (h : operandsF1 make args = some i) :
    ∃ a, args = [a] ∧ i = make a :=
  match args, h with
  | [a], h => ⟨a, rfl, (Option.some.inj h).symm⟩

theorem eq_of_operandsF2 {make : BitVec 16 → Instr} {i : Instr} {args : List Byte}
    (h : operandsF2 make args = some i) : ∃ hi lo, args = [hi, lo] ∧ i = make (hi ++ lo) :=
  match args, h with
  | [hi, lo], h => ⟨hi, lo, rfl, (Option.some.inj h).symm⟩

theorem eq_of_operandsF4 {make : Byte → Byte → Byte → Byte → Instr} {i : Instr} {args : List Byte}
    (h : operandsF4 make args = some i) : ∃ d p v t, args = [d, p, v, t] ∧ i = make d p v t :=
  match args, h with
  | [d, p, v, t], h => ⟨d, p, v, t, rfl, (Option.some.inj h).symm⟩

theorem eq_of_operandsFS {make : Byte → List Byte → Instr} {i : Instr} {args : List Byte}
    (h : operandsFS make args = some i) : ∃ d text, args = d :: text ∧ i = make d text :=
  match args, h with
  | d :: text, h => ⟨d, text, rfl, (Option.some.inj h).symm⟩

/-! Assembling operands against encoding -/

/-- The packet of what the operands assemble to is the opcode byte and these operands: no operand bit is dropped. -/
theorem encode_of_assemble {o : Opcode} {args : List Byte} {i : Instr} (h : assemble o args = some i) :
    encode i = opcodeByte o :: args := by
  cases o with
  | rdrst | rpm | clrdsp | setbrt =>
    obtain ⟨a, rfl, rfl⟩ := eq_of_operandsF1 h
    rfl
  | rpms | clrall | display | config =>
    obtain ⟨rfl, rfl⟩ := eq_of_operandsF0 h
    rfl
  | map =>
    obtain ⟨hi, lo, rfl, rfl⟩ := eq_of_operandsF2 h
    rw [encode, hiByte_append, loByte_append, opcodeByte]
  | setdig =>
    obtain ⟨d, p, v, t, rfl, rfl⟩ := eq_of_operandsF4 h
    rfl
  | wrstr =>
    obtain ⟨d, text, rfl, rfl⟩ := eq_of_operandsFS h
    rfl

/-- The packet of every instruction is an opcode byte and operands that assemble to that instruction again. -/
theorem exists_assemble_of_encode (i : Instr) :
    ∃ o args, encode i = opcodeByte o :: args ∧ assemble o args = some i := by
  cases i with
  | rdrst f => exact ⟨.rdrst, [f], rfl, rfl⟩
  | rpm f => exact ⟨.rpm, [f], rfl, rfl⟩
  | rpms => exact ⟨.rpms, [], rfl, rfl⟩
  | map raw =>
    refine ⟨.map, [raw.extractLsb' 8 8, raw.extractLsb' 0 8], rfl, ?_⟩
    rw [assemble, operandsF2, append_hiByte_loByte]
  | clrall => exact ⟨.clrall, [], rfl, rfl⟩
  | clrdsp d => exact ⟨.clrdsp, [d], rfl, rfl⟩
  | setdig d p v dot => exact ⟨.setdig, [d, p, v, dot], rfl, rfl⟩
  | wrstr d text => exact ⟨.wrstr, d :: text, rfl, rfl⟩
  | display => exact ⟨.display, [], rfl, rfl⟩
  | setbrt level => exact ⟨.setbrt, [level], rfl, rfl⟩
  | config => exact ⟨.config, [], rfl, rfl⟩

/-! The decoder against the encoder -/

/-- A packet whose opcode is defined and whose length fits passes or fails by its operand check alone (R76). -/
theorem decode_of_assemble {o : Opcode} {args : List Byte} {i : Instr} (h : assemble o args = some i) :
    decode (opcodeByte o :: args) = if wellFormed i then .ok i else .error .errOperand := by
  simp only [decode_cons, opcodeOf_opcodeByte, h]

/-- What passes the decoder starts with a defined opcode, and its operands assemble to the decoded instruction. -/
theorem exists_assemble_of_decode {c : List Byte} {i : Instr} (h : decode c = .ok i) :
    ∃ o args, c = opcodeByte o :: args ∧ assemble o args = some i := by
  cases c with
  | nil => cases h
  | cons b args =>
    rw [decode_cons] at h
    split at h
    · cases h
    · next o hop =>
      split at h
      · cases h
      · next j hj =>
        split at h
        · cases h
          exact ⟨o, args, by rw [(opcodeOf_eq_some b o).mp hop], hj⟩
        · cases h

/-- The packets that decode are the packets of the well-formed instructions, each standing for its own (R70 to R73). -/
theorem decode_eq_ok_iff (c : List Byte) (i : Instr) : decode c = .ok i ↔ wellFormed i = true ∧ encode i = c := by
  constructor
  · intro h
    obtain ⟨o, args, rfl, hasm⟩ := exists_assemble_of_decode h
    exact ⟨decode_ok_wellFormed _ i h, encode_of_assemble hasm⟩
  · rintro ⟨hwf, rfl⟩
    obtain ⟨o, args, henc, hasm⟩ := exists_assemble_of_encode i
    rw [henc, decode_of_assemble hasm, if_pos hwf]

/-- Settles O12: the operands of an instruction's packet assemble to that instruction, and the operand check lets a
well-formed one through. -/
theorem decodeInvertsEncode : Obligations.DecodeInvertsEncode :=
  fun i hwf => (decode_eq_ok_iff (encode i) i).mpr ⟨hwf, rfl⟩

/-- Settles O13: each format keeps every byte it reads, so encoding gives the packet back. -/
theorem encodeInvertsDecode : Obligations.EncodeInvertsDecode :=
  fun c i h => ((decode_eq_ok_iff c i).mp h).2

/-- Settles O15: each packet written out is the packet of the well-formed instruction it stands for. -/
theorem specPacketsDecode : Obligations.SpecPacketsDecode :=
  ⟨decodeInvertsEncode (.setdig 1#8 7#8 1#8 0#8) rfl,
    decodeInvertsEncode (.wrstr 0#8 [0x31#8, 0x2E#8]) rfl,
    decodeInvertsEncode (.map 32768#16) rfl,
    decodeInvertsEncode (.rdrst 1#8) rfl,
    decodeInvertsEncode .config rfl⟩

end Sys2Proof

/-! SUPPORT. The response of each command (R80) and of a refused packet (R180): the payload as a function of the command
and the state, tied to `exec` once. -/

namespace Sys2Proof.Machine

/-! Well-formed operands -/

theorem exists_fanOf_of_legalFan {x : Byte} (h : legalFan x = true) : ∃ f, fanOf x = some f :=
  Option.isSome_iff_exists.mp ((fanOf_isSome x).trans h)

theorem exists_dotOf_of_legalDot {t : Byte} (h : legalDot t = true) : ∃ lit, dotOf t = some lit :=
  Option.isSome_iff_exists.mp ((dotOf_isSome t).trans h)

/-- The counter a legal fan operand selects: 0x00 the front fan's, else the rear fan's (R74). -/
theorem getCnt_of_fanOf {x : Byte} {f : Fan} (h : fanOf x = some f) (s : State) :
    getCnt f s = if x = 0x00#8 then s.cnt0 else s.cnt1 := by
  unfold fanOf at h
  split at h
  · next hx => cases h; rw [if_pos hx, getCnt_front]
  · next hx =>
    split at h
    · cases h; rw [if_neg hx, getCnt_rear]
    · cases h

/-! The payload of an accepted command -/

/-- The payload column of the response table (R80), for the command `i` run from `s`. -/
def okPayload (i : Instr) (s : State) : List Byte :=
  match i with
  | .rdrst x => beBytes s.cfg.cntb (if x = 0x00#8 then s.cnt0 else s.cnt1)
  | .rpm x => beBytes s.cfg.rpmb (scale (if x = 0x00#8 then s.cnt0 else s.cnt1))
  | .rpms => beBytes s.cfg.rpmb (scale s.cnt0) ++ beBytes s.cfg.rpmb (scale s.cnt1)
  | .map raw => beBytes 4 (curve s.cfg.period raw).toNat
  | .clrall | .clrdsp _ | .setdig _ _ _ _ | .wrstr _ _ | .display | .setbrt _ | .config => []

/-- A well-formed command does its work on the counters and the matrix, emits its actions, and answers OK with the
payload of R80. -/
theorem exec_of_wellFormed {i : Instr} (hwf : wellFormed i = true) (s : State) :
    ∃ u, exec i s = .next (respondOk (okPayload i s) (emitAll (commandActions i s) u)) ∧ u.outputs = s.outputs := by
  cases i with
  | rdrst x =>
    obtain ⟨f, hx⟩ := exists_fanOf_of_legalFan hwf
    refine ⟨setCnt f 0 s, ?_, setCnt_outputs f 0 s⟩
    rw [exec_rdrst_of_fanOf hx, getCnt_of_fanOf hx]
    rfl
  | rpm x =>
    obtain ⟨f, hx⟩ := exists_fanOf_of_legalFan hwf
    refine ⟨setCnt f 0 s, ?_, setCnt_outputs f 0 s⟩
    rw [exec_rpm_of_fanOf hx, getCnt_of_fanOf hx]
    rfl
  | setdig d p v dot =>
    obtain ⟨lit, hdot⟩ := exists_dotOf_of_legalDot hwf
    exact ⟨_, exec_setdig_of_dotOf hdot d p v s, rfl⟩
  | rpms | map | clrall | clrdsp | wrstr | display | setbrt | config => exact ⟨_, rfl, rfl⟩

/-- The outputs a well-formed command adds: its actions, and last its one response (R43, R80). -/
theorem exec_outputs_of_wellFormed {i : Instr} (hwf : wellFormed i = true) (s : State) :
    ∃ t, exec i s = .next t ∧
      t.outputs = s.outputs ++ commandActions i s ++ [.response (0x00#8 :: okPayload i s)] := by
  obtain ⟨u, hdone, hout⟩ := exec_of_wellFormed hwf s
  exact ⟨_, hdone, by rw [respondOk_outputs, emitAll_outputs, hout]⟩

theorem isResponse_of_mem_commandActions {i : Instr} {s : State} {o : Output} (h : o ∈ commandActions i s) :
    isResponse o = false := by
  cases o with
  | response bs => exact absurd h (commandActions_no_response i s bs)
  | busTx a bs => rfl
  | pwmSet ch duty => rfl

/-! The answer to a refused packet -/

theorem errorStatus_ne_ok (e : PacketError) : errorStatus e ≠ 0x00#8 := by
  cases e <;> decide

/-- A packet the decoder refuses is answered by the status byte of its error, and nothing else happens (R180). -/
theorem refusedWith_of_decode_error {c : List Byte} {e : PacketError} (h : decode c = .error e) :
    refusedWith c (errorStatus e) := by
  intro s rest
  simp only [step, h]
  rfl

/-- Settles O7: the response is `okPayload`'s, read off command by command; a refused packet is answered by its error's
status, which is never 0x00. -/
theorem responseOfEachCommand : Obligations.ResponseOfEachCommand := by
  refine ⟨fun i s hwf => ?_, fun c e h => ⟨errorStatus e, errorStatus_ne_ok e, refusedWith_of_decode_error h⟩⟩
  obtain ⟨t, hexec, hout⟩ := exec_outputs_of_wellFormed hwf s
  refine ⟨t, commandActions i s, okPayload i s, hexec, hout, fun o ho => isResponse_of_mem_commandActions ho,
    ?rdrst, ?rpm, ?rpms, ?map, ?noPayload⟩
  case rdrst =>
    rintro f rfl
    exact ⟨rfl, beBytes_length _ _⟩
  case rpm =>
    rintro f rfl
    exact ⟨rfl, beBytes_length _ _⟩
  case rpms =>
    rintro rfl
    refine ⟨rfl, ?_⟩
    rw [okPayload, List.length_append, beBytes_length, beBytes_length, ← two_mul]
    rfl
  case map =>
    rintro raw rfl
    exact ⟨rfl, beBytes_length _ _⟩
  case noPayload =>
    rintro (rfl | ⟨d, rfl⟩ | ⟨d, p, v, dot, rfl⟩ | ⟨d, text, rfl⟩ | rfl | ⟨level, rfl⟩ | rfl) <;> rfl

end Sys2Proof.Machine

/-! SUPPORT. The packets the decoder refuses for their length or a reserved operand (R76, R78), each with its answer. -/

namespace Sys2Proof

/-- A defined opcode with operands that do not fit its format is a length error, whatever the operand bytes are. -/
theorem decode_of_assemble_none {o : Opcode} {args : List Byte} (h : assemble o args = none) :
    decode (opcodeByte o :: args) = .error .errLength := by
  simp only [decode_cons, opcodeOf_opcodeByte, h]

theorem legalFan_of_lt {f : Byte} (h : f.toNat < 2) : legalFan f = true := decide_eq_true h

theorem legalFan_of_reserved {f : Byte} (h : 2 ≤ f.toNat) : legalFan f = false := decide_eq_false (Nat.not_lt.mpr h)

end Sys2Proof

namespace Sys2Proof.Machine

/-- A packet whose length does not fit its opcode's format is answered ERR_LENGTH (R76, R180). -/
theorem refusedWith_of_not_formatFits {o : Opcode} {args : List Byte}
    (h : formatFits (opcodeFormat o) (args.length + 1) = false) : refusedWith (opcodeByte o :: args) 0x02#8 := by
  have hnone : assemble o args = none := Option.not_isSome_iff_eq_none.mp (by rw [assemble_isSome, h]; decide)
  exact refusedWith_of_decode_error (decode_of_assemble_none hnone)

/-- A packet of one operand byte has exactly the length 2 (R71). -/
theorem refusedWith_of_length_ne_one {o : Opcode} {args : List Byte} (ho : opcodeFormat o = .f1)
    (h : args.length ≠ 1) : refusedWith (opcodeByte o :: args) 0x02#8 := by
  refine refusedWith_of_not_formatFits ?_
  rw [ho]
  exact decide_eq_false fun hlen => h (Nat.succ.inj hlen)

/-- A packet with no operand is its opcode byte alone (R71). -/
theorem refusedWith_of_ne_nil {o : Opcode} {args : List Byte} (ho : opcodeFormat o = .f0) (h : args ≠ []) :
    refusedWith (opcodeByte o :: args) 0x02#8 := by
  refine refusedWith_of_not_formatFits ?_
  rw [ho]
  exact decide_eq_false fun hlen => h (List.eq_nil_of_length_eq_zero (Nat.succ.inj hlen))

/-- A packet that fits its format but carries a reserved operand is answered ERR_OPERAND (R78, R180). -/
theorem refusedWith_of_not_wellFormed {o : Opcode} {args : List Byte} {i : Instr} (hasm : assemble o args = some i)
    (hwf : wellFormed i = false) : refusedWith (opcodeByte o :: args) 0x03#8 := by
  have hdecode : decode (opcodeByte o :: args) = .error .errOperand := by
    rw [decode_of_assemble hasm, hwf, if_neg Bool.false_ne_true]
  exact refusedWith_of_decode_error hdecode

end Sys2Proof.Machine

/-! SUPPORT. The tach unit: the wrap of a pulse and of a row of pulses (R100, R101), the scaling law (R105), and what
the three exchanging commands answer (R102 to R104). -/

namespace Sys2Proof.Machine

/-! Pulses -/

theorem pulse_setInputs (f : Fan) (rest : List Event) (s : State) :
    pulse f (setInputs rest s) = setInputs rest (pulse f s) := by
  cases f <;> rfl

theorem step_setInputs_pulse (f : Fan) (rest : List Event) (s : State) :
    step (setInputs (.pulse f :: rest) s) = .next (setInputs rest (pulse f s)) := by
  rw [← pulse_setInputs]
  exact step_of_pulse rfl

/-- Settles O17: a step on a pulse is `pulse` of its own counter. -/
theorem pulseAddsOneToItsCounter : Obligations.PulseAddsOneToItsCounter :=
  fun s rest => ⟨step_setInputs_pulse .front rest s, step_setInputs_pulse .rear rest s⟩

/-- A full counter wraps to 0 (R101). -/
theorem step_setInputs_pulse_of_full {f : Fan} {s : State} (h : getCnt f s = 2 ^ s.cfg.cntw - 1) (rest : List Event) :
    step (setInputs (.pulse f :: rest) s) = .next (setInputs rest (setCnt f 0 s)) := by
  rw [step_setInputs_pulse, pulse, h, Nat.sub_add_cancel Nat.one_le_two_pow, Nat.mod_self]

theorem setCnt_getCnt (f : Fan) (s : State) : setCnt f (getCnt f s) s = s := by
  cases f <;> rfl

/-- Pulses in a row add their number to the counter, modulo 2^CNTW, and do nothing else. -/
theorem runSteps_replicate_pulse (f : Fan) (n : Nat) (rest : List Event) {s : State}
    (h : getCnt f s < 2 ^ s.cfg.cntw) :
    runSteps n (setInputs (List.replicate n (.pulse f) ++ rest) s) =
      .next (setInputs rest (setCnt f ((getCnt f s + n) % 2 ^ s.cfg.cntw) s)) := by
  induction n generalizing s with
  | zero => rw [Nat.add_zero, Nat.mod_eq_of_lt h, setCnt_getCnt]; rfl
  | succ n ih =>
    have hstep : step (setInputs (List.replicate (n + 1) (.pulse f) ++ rest) s) =
        .next (setInputs (List.replicate n (.pulse f) ++ rest) (pulse f s)) := step_setInputs_pulse f _ s
    have hcnt : getCnt f (pulse f s) = (getCnt f s + 1) % 2 ^ s.cfg.cntw := by
      rw [getCnt_pulse, if_pos rfl]
    have hsmall : getCnt f (pulse f s) < 2 ^ (pulse f s).cfg.cntw := by
      rw [hcnt, pulse_cfg]
      exact Nat.mod_lt _ (Nat.two_pow_pos _)
    rw [runSteps_succ_of_step hstep, ih hsmall, hcnt, pulse_cfg, pulse, setCnt_setCnt, Nat.mod_add_mod,
      Nat.add_assoc, Nat.add_comm 1 n]

/-- Settles O18: a full counter wraps to 0, and a row of pulses leaves the exact state of `runSteps_replicate_pulse`, in
which a whole lap cancels and a shorter row from 0 is its own number. -/
theorem pulseAtFullCounterWraps : Obligations.PulseAtFullCounterWraps := by
  refine ⟨fun s rest hfull => ?front, fun s rest hfull => ?rear, fun f n s rest hcnt => ?row⟩
  case front => exact step_setInputs_pulse_of_full (f := .front) hfull rest
  case rear => exact step_setInputs_pulse_of_full (f := .rear) hfull rest
  case row =>
    refine ⟨_, runSteps_replicate_pulse f n rest hcnt, rfl, ?_, ?_, ?_, ?_⟩
    · rw [setInputs_outputs, setCnt_outputs]
    all_goals rw [getCnt_setInputs, getCnt_setCnt_self]
    · rintro rfl
      rw [Nat.add_mod_right, Nat.mod_eq_of_lt hcnt]
    · intro hzero hn
      rw [hzero, Nat.zero_add, Nat.mod_eq_of_lt hn]

/-! The scaling law -/

/-- The constant multiplication by 60 = 64 - 4 as two shifts and a subtraction (R105). -/
theorem scale_eq_shifts (p : Nat) : scale p = ((p >>> 1) <<< 6) - ((p >>> 1) <<< 2) := by
  rw [scale, Nat.shiftLeft_eq, Nat.shiftLeft_eq, Nat.shiftRight_eq_div_pow, ← Nat.mul_sub]

/-- An odd count scales as the even count below it: a revolution is two pulses (R103, R105). -/
theorem scale_even_and_odd (k : Nat) : scale (2 * k) = 60 * k ∧ scale (2 * k + 1) = 60 * k := by
  simp only [scale]
  omega

theorem scale_mono {p q : Nat} (h : p ≤ q) : scale p ≤ scale q :=
  Nat.mul_le_mul_right 60 (Nat.div_le_div_right h)

/-- Settles O24: the definition, then each law by its lemma. -/
theorem scaleLaws : Obligations.ScaleLaws :=
  ⟨fun _ => rfl, fun _ _ => scale_lt, scale_eq_shifts, scale_even_and_odd, fun _ _ => scale_mono,
    fun p => Nat.dvd_mul_left 60 (p / 2)⟩

/-! The three exchanging commands -/

/-- Settles O21: the exchange of each fan, the packets of the legal fans, and the two refusals. -/
theorem rdrstReturnsAndClearsItsCounter : Obligations.RdrstReturnsAndClearsItsCounter :=
  ⟨exec_rdrst_of_fanOf (f := .front) rfl, exec_rdrst_of_fanOf (f := .rear) rfl,
    fun f hf => decodeInvertsEncode (.rdrst f) (legalFan_of_lt hf),
    fun _ hlen => refusedWith_of_length_ne_one (o := .rdrst) rfl hlen,
    fun _ hf => refusedWith_of_not_wellFormed (o := .rdrst) rfl (legalFan_of_reserved hf)⟩

/-- Settles O22: the scaled exchange of each fan, the packets of the legal fans, and the two refusals. -/
theorem rpmReturnsScaledCountAndClears : Obligations.RpmReturnsScaledCountAndClears :=
  ⟨exec_rpm_of_fanOf (f := .front) rfl, exec_rpm_of_fanOf (f := .rear) rfl,
    fun f hf => decodeInvertsEncode (.rpm f) (legalFan_of_lt hf),
    fun _ hlen => refusedWith_of_length_ne_one (o := .rpm) rfl hlen,
    fun _ hf => refusedWith_of_not_wellFormed (o := .rpm) rfl (legalFan_of_reserved hf)⟩

/-- RPMS exchanges both counters at one instant and answers the front fan's RPM, then the rear fan's (R104). -/
theorem exec_rpms (s : State) :
    exec .rpms s =
      .next (respondOk (beBytes s.cfg.rpmb (scale (getCnt .front s)) ++ beBytes s.cfg.rpmb (scale (getCnt .rear s)))
        (setCnt .rear 0 (setCnt .front 0 s))) := rfl

/-- Settles O23: the two exchanges, the one packet, and its refusal with operands. -/
theorem rpmsReturnsBothAndClearsBoth : Obligations.RpmsReturnsBothAndClearsBoth :=
  ⟨exec_rpms, decodeInvertsEncode .rpms rfl, fun _ hargs => refusedWith_of_ne_nil (o := .rpms) rfl hargs⟩

end Sys2Proof.Machine

/-! SUPPORT. The duty unit: the curve without its 32-bit narrowing (R121), its properties (R122), and the command MAP
(R120). -/

namespace Sys2Proof.Machine

/-! The deadzone -/

/-- The reading the curve squares: 0 in the deadzone, the reading itself from 2000 on (R121). -/
def afterDeadzone (raw : BitVec 16) : Nat :=
  if raw.toNat < 2000 then 0 else raw.toNat

theorem afterDeadzone_of_lt {raw : BitVec 16} (h : raw.toNat < 2000) : afterDeadzone raw = 0 := if_pos h

theorem afterDeadzone_of_ge {raw : BitVec 16} (h : 2000 ≤ raw.toNat) : afterDeadzone raw = raw.toNat :=
  if_neg (Nat.not_lt.mpr h)

theorem afterDeadzone_le_toNat (raw : BitVec 16) : afterDeadzone raw ≤ raw.toNat := by
  obtain h | h := Nat.lt_or_ge raw.toNat 2000
  · rw [afterDeadzone_of_lt h]
    exact Nat.zero_le _
  · rw [afterDeadzone_of_ge h]

/-- The deadzone maps to the smallest value, so cutting it out keeps the order of two readings. -/
theorem afterDeadzone_mono {raw raw' : BitVec 16} (h : raw.toNat ≤ raw'.toNat) :
    afterDeadzone raw ≤ afterDeadzone raw' := by
  obtain hlow | hhigh := Nat.lt_or_ge raw.toNat 2000
  · rw [afterDeadzone_of_lt hlow]
    exact Nat.zero_le _
  · rw [afterDeadzone_of_ge hhigh, afterDeadzone_of_ge (hhigh.trans h)]
    exact h

/-! The curve in natural numbers -/

/-- A reading is at most 65535, so its square is at most the divisor 65535 * 65535 and the quotient at most PERIOD. -/
theorem quotient_le_period (period : BitVec 32) (raw : BitVec 16) :
    afterDeadzone raw * afterDeadzone raw * period.toNat / 4294836225 ≤ period.toNat := by
  have hr : afterDeadzone raw ≤ 65535 := (afterDeadzone_le_toNat raw).trans (Nat.le_of_lt_succ raw.isLt)
  exact Nat.div_le_of_le_mul (Nat.mul_le_mul_right _ (Nat.mul_le_mul hr hr))

/-- The quotient fits the 32 bits of a duty, so narrowing it loses nothing (R121). -/
theorem toNat_curve (period : BitVec 32) (raw : BitVec 16) :
    (curve period raw).toNat = afterDeadzone raw * afterDeadzone raw * period.toNat / 4294836225 :=
  Nat.mod_eq_of_lt ((quotient_le_period period raw).trans_lt period.isLt)

theorem toNat_curve_of_lt (period : BitVec 32) {raw : BitVec 16} (h : raw.toNat < 2000) :
    (curve period raw).toNat = 0 := by
  rw [toNat_curve, afterDeadzone_of_lt h, Nat.zero_mul, Nat.zero_div]

theorem toNat_curve_of_ge (period : BitVec 32) {raw : BitVec 16} (h : 2000 ≤ raw.toNat) :
    (curve period raw).toNat = raw.toNat * raw.toNat * period.toNat / 4294836225 := by
  rw [toNat_curve, afterDeadzone_of_ge h]

/-! The properties of R122 -/

theorem toNat_curve_le_period (period : BitVec 32) (raw : BitVec 16) : (curve period raw).toNat ≤ period.toNat :=
  (toNat_curve period raw).trans_le (quotient_le_period period raw)

theorem toNat_curve_mono (period : BitVec 32) {raw raw' : BitVec 16} (h : raw.toNat ≤ raw'.toNat) :
    (curve period raw).toNat ≤ (curve period raw').toNat := by
  have hr := afterDeadzone_mono h
  rw [toNat_curve, toNat_curve]
  exact Nat.div_le_div_right (Nat.mul_le_mul_right _ (Nat.mul_le_mul hr hr))

/-- At full scale the square is the divisor, so the division is exact. -/
theorem curve_fullScale (period : BitVec 32) : curve period 65535#16 = period := by
  refine BitVec.eq_of_toNat_eq ?_
  rw [toNat_curve_of_ge period (by decide)]
  exact Nat.mul_div_cancel_left period.toNat (by decide : 0 < 4294836225)

/-- The value at the first reading past the deadzone, the height of the jump there. -/
theorem toNat_curve_edge (period : BitVec 32) :
    (curve period 2000#16).toNat = 4000000 * period.toNat / 4294836225 :=
  toNat_curve_of_ge period (by decide)

/-- Settles O27: each property by its lemma, and the two values at the deadzone's edge by the division there. -/
theorem curveProperties : Obligations.CurveProperties := by
  intro period
  refine ⟨toNat_curve_of_lt period (by decide), fun raw => toNat_curve_of_lt period, curve_fullScale period,
    toNat_curve_le_period period, fun raw raw' => toNat_curve_mono period, toNat_curve_edge period, ?_, ?_⟩
  · intro hperiod
    rw [toNat_curve_edge, hperiod]
  · intro hperiod
    rw [toNat_curve_edge]
    omega

/-! The command MAP -/

/-- MAP calls the sink for channel 0, then for channel 1, and answers, all three with the curve's duty (R120). -/
theorem exec_map (raw : BitVec 16) (s : State) :
    exec (.map raw) s =
      .next { s with
        outputs := s.outputs ++
          [.pwmSet 0 (curve s.cfg.period raw), .pwmSet 1 (curve s.cfg.period raw),
            .response (0x00#8 :: beBytes 4 (curve s.cfg.period raw).toNat)] } := by
  have hexec : exec (.map raw) s =
      .next (respondOk (beBytes 4 (curve s.cfg.period raw).toNat) (emitAll (mapActions raw s) s)) := rfl
  rw [hexec, mapActions, emitAll_cons, emitAll_cons, emitAll_nil, emit_pwmSet, emit_pwmSet, respondOk_eq,
    List.append_assoc, List.append_assoc]
  rfl

/-- A packet of one 16-bit operand has exactly the length 3 (R71). -/
theorem refusedWith_of_length_ne_two {o : Opcode} {args : List Byte} (ho : opcodeFormat o = .f2)
    (h : args.length ≠ 2) : refusedWith (opcodeByte o :: args) 0x02#8 := by
  refine refusedWith_of_not_formatFits ?_
  rw [ho]
  exact decide_eq_false fun hlen => h (Nat.succ.inj hlen)

/-- Settles O26: the duty is the curve's, in the deadzone and past it; the packet's two operand bytes assemble to the
reading, and another number of them is refused. -/
theorem mapDrivesBothChannelsAlike : Obligations.MapDrivesBothChannelsAlike := by
  refine ⟨fun raw s => ⟨curve s.cfg.period raw, ?_, exec_map raw s⟩,
    fun hi lo => decode_of_assemble (o := .map) (args := [hi, lo]) rfl,
    fun _ hlen => refusedWith_of_length_ne_two (o := .map) rfl hlen⟩
  split
  · next hlow => exact toNat_curve_of_lt s.cfg.period hlow
  · next hhigh => exact toNat_curve_of_ge s.cfg.period (Nat.le_of_not_lt hhigh)

end Sys2Proof.Machine

/-! SUPPORT. The matrix unit (`42_matrix.md`): the state each command leaves, what a digit slot shows after it, and the
scan of WRSTR as two passes, first the digits of the text (`digitsOf`), then one SETDIG per digit (`fillSlots`). -/

namespace Sys2Proof.Machine

/-! The state after each matrix command -/

/-- A matrix command writes the matrix and answers OK with no payload (R80). -/
theorem respondOk_setMatrix (m : Matrix) (s : State) :
    respondOk [] (setMatrix m s) = { s with matrix := m, outputs := s.outputs ++ [.response [0x00#8]] } := rfl

theorem exec_clrall (s : State) :
    exec .clrall s =
      .next { s with matrix := clearAll s.matrix, outputs := s.outputs ++ [.response [0x00#8]] } := by
  simp only [exec, execClrall, respondOk_setMatrix]

theorem exec_clrdsp (d : Byte) (s : State) :
    exec (.clrdsp d) s =
      .next { s with matrix := clearDisplay d.toNat s.matrix, outputs := s.outputs ++ [.response [0x00#8]] } := by
  simp only [exec, execClrdsp, respondOk_setMatrix]

theorem exec_wrstr (d : Byte) (text : List Byte) (s : State) :
    exec (.wrstr d text) s =
      .next { s with
        matrix := writeString s.cfg d.toNat text s.matrix, outputs := s.outputs ++ [.response [0x00#8]] } := by
  simp only [exec, execWrstr, respondOk_setMatrix]

/-- A legal dot operand is lit exactly when it is 0x01 (R71). -/
theorem dotOf_of_lt {dot : Byte} (h : dot.toNat < 2) : dotOf dot = some (decide (dot = 0x01#8)) := by
  obtain ⟨lit, hlit⟩ := exists_dotOf_of_legalDot (decide_eq_true h)
  unfold dotOf at hlit ⊢
  split at hlit
  · next hzero => subst hzero; rfl
  · next hzero =>
    split at hlit
    · next hone => subst hone; rfl
    · cases hlit

theorem exec_setdig_of_lt {dot : Byte} (h : dot.toNat < 2) (d p v : Byte) (s : State) :
    exec (.setdig d p v dot) s =
      .next { s with
        matrix := setDigit s.cfg d.toNat p.toNat v (decide (dot = 0x01#8)) s.matrix
        outputs := s.outputs ++ [.response [0x00#8]] } := by
  rw [exec_setdig_of_dotOf (dotOf_of_lt h), respondOk_setMatrix]

/-! Addresses: the rows of a display, and the displays and slots that do not exist -/

/-- The rows of display `d` are the eight from `8 * d` on (R22). -/
theorem row_div_eight_iff (r d : Nat) : r / 8 = d ↔ 8 * d ≤ r ∧ r < 8 * d + 8 := by
  omega

theorem clearDisplay_no_display {d : Nat} (h : 1 < d) (m : Matrix) : clearDisplay d m = m :=
  if_neg (Nat.not_le.mpr h)

theorem setDigit_out_of_range (cfg : Config) {d p : Nat} (h : 1 < d ∨ 7 < p) (v : Byte) (dot : Bool) (m : Matrix) :
    setDigit cfg d p v dot m = m :=
  if_pos h

/-! The pattern of a value (R132, R134) -/

theorem patternOf_of_lt (cfg : Config) {v : Byte} (h : v.toNat < 10) : patternOf cfg v = cfg.font[v.toNat] := dif_pos h

theorem patternOf_of_ge (cfg : Config) {v : Byte} (h : 10 ≤ v.toNat) : patternOf cfg v = cfg.blank :=
  dif_neg (Nat.not_lt.mpr h)

/-! What a slot shows -/

/-- The bits `setDigit` gives its own slot, row by row (R132). -/
theorem readBit_setDigit_slot (cfg : Config) {d p s : Nat} (hd : d ≤ 1) (hp : p < 8) (hs : s < 8) (v : Byte)
    (dot : Bool) (m : Matrix) :
    readBit (setDigit cfg d p v dot m) (8 * d + s) p = if s = 7 then dot else (patternOf cfg v).getLsbD s := by
  have hrow : (8 * d + s) / 8 = d := (row_div_eight_iff _ d).mpr (by omega)
  have hseg : (8 * d + s) % 8 = s := by omega
  rw [readBit_setDigit _ _ _ _ _ _ _ _ hp, if_pos ⟨hd, Nat.le_of_lt_succ hp, hrow, rfl⟩, hseg]

/-- The net effect of SETDIG with the column's rows counted from the display's first one (R135). -/
theorem readBit_setDigit_column (cfg : Config) (d p : Nat) (v : Byte) (dot : Bool) (m : Matrix) (r : Nat) {q : Nat}
    (hq : q < 8) :
    readBit (setDigit cfg d p v dot m) r q =
      if d ≤ 1 ∧ 8 * d ≤ r ∧ r < 8 * d + 8 ∧ q = p then
        (if r = 8 * d + 7 then dot else (patternOf cfg v).getLsbD (r - 8 * d))
      else readBit m r q := by
  split
  · next hcol =>
    obtain ⟨hd, hlow, hhigh, rfl⟩ := hcol
    obtain ⟨s, rfl⟩ := Nat.exists_eq_add_of_le hlow
    rw [readBit_setDigit_slot cfg hd hq (by omega), Nat.add_sub_cancel_left]
    simp only [Nat.add_left_cancel_iff]
  · next hcol =>
    rw [readBit_setDigit _ _ _ _ _ _ _ _ hq, if_neg]
    rintro ⟨hd, -, hrow, hpq⟩
    obtain ⟨hlow, hhigh⟩ := (row_div_eight_iff r d).mp hrow
    exact hcol ⟨hd, hlow, hhigh, hpq.symm⟩

theorem slotShows_setDigit (cfg : Config) {d p : Nat} (hd : d ≤ 1) (hp : p < 8) (v : Byte) (dot : Bool) (m : Matrix) :
    slotShows (setDigit cfg d p v dot m) d p (patternOf cfg v) dot := by
  refine ⟨fun s hs => ?_, ?_⟩
  · rw [readBit_setDigit_slot cfg hd hp (Nat.lt_succ_of_lt hs), if_neg (Nat.ne_of_lt hs)]
  · rw [readBit_setDigit_slot cfg hd hp (by decide), if_pos rfl]

/-- A cleared display is blank in every slot (R131). -/
theorem slotShows_clearDisplay {d : Nat} (hd : d ≤ 1) (p : Nat) (m : Matrix) :
    slotShows (clearDisplay d m) d p 0#7 false := by
  have hbit (s : Nat) (hs : s < 8) : readBit (clearDisplay d m) (8 * d + s) p = false := by
    have hrow : (8 * d + s) / 8 = d := (row_div_eight_iff _ d).mpr (by omega)
    rw [readBit, readRow_clearDisplay, if_pos ⟨hd, hrow⟩, BitVec.getLsbD_zero]
  exact ⟨fun s hs => by rw [hbit s (by omega), BitVec.getLsbD_zero], hbit 7 (by decide)⟩

/-- What a slot shows depends on the bits of its own column only. -/
theorem slotShows_congr {m m' : Matrix} {d p : Nat} {pat : BitVec 7} {dot : Bool}
    (h : ∀ r, readBit m' r p = readBit m r p) : slotShows m' d p pat dot ↔ slotShows m d p pat dot := by
  simp only [slotShows, h]

/-! The commands CLRALL, CLRDSP and SETDIG -/

/-- Settles O28: every row by `readRow_clearAll`, the one packet, and its refusal with operands. -/
theorem clrallZeroesTheMatrix : Obligations.ClrallZeroesTheMatrix :=
  ⟨fun s => ⟨clearAll s.matrix, readRow_clearAll s.matrix, exec_clrall s⟩, decodeInvertsEncode .clrall rfl,
    fun _ hargs => refusedWith_of_ne_nil (o := .clrall) rfl hargs⟩

/-- Settles O29: the rows by `readRow_clearDisplay`, the displays that do not exist, the packets and their refusal. -/
theorem clrdspZeroesOnlyItsRows : Obligations.ClrdspZeroesOnlyItsRows := by
  refine ⟨fun d s => ⟨clearDisplay d.toNat s.matrix, fun r _ => ?rows, exec_clrdsp d s⟩, fun d s hd => ?noDisplay,
    fun d => decodeInvertsEncode (.clrdsp d) rfl, fun _ hlen => refusedWith_of_length_ne_one (o := .clrdsp) rfl hlen⟩
  case rows => simp only [readRow_clearDisplay, row_div_eight_iff]
  case noDisplay => rw [exec_clrdsp, clearDisplay_no_display hd]

/-- Settles O30: the column by `readBit_setDigit_column`, the addresses out of range, the packets and their two
refusals. -/
theorem setdigWritesExactlyOneColumn : Obligations.SetdigWritesExactlyOneColumn := by
  refine ⟨fun d p v dot s hdot => ⟨_, patternOf s.cfg v, patternOf_of_lt s.cfg, patternOf_of_ge s.cfg,
      fun r q _ hq => readBit_setDigit_column s.cfg d.toNat p.toNat v _ s.matrix r hq, exec_setdig_of_lt hdot d p v s⟩,
    fun d p v dot s hdot hrange => ?outOfRange,
    fun d p v dot hdot => decodeInvertsEncode (.setdig d p v dot) (decide_eq_true hdot),
    fun args hlen => ?otherLength,
    fun d p v dot hdot => refusedWith_of_not_wellFormed (o := .setdig) rfl (decide_eq_false (Nat.not_lt.mpr hdot))⟩
  case outOfRange => rw [exec_setdig_of_lt hdot, setDigit_out_of_range s.cfg hrange]
  case otherLength =>
    exact refusedWith_of_not_formatFits (o := .setdig) (decide_eq_false fun hfit => hlen (Nat.succ.inj hfit))

/-- Settles O31: the slot shows the font entry of the value, and R134 fixes the entries 8 and 1. -/
theorem fixedFontEntriesAreShown : Obligations.FixedFontEntriesAreShown := by
  intro s d p dot hwf hd hp hdot
  obtain ⟨-, hfont8, hfont1⟩ := hwf
  have shows (v : Byte) : ∃ t, exec (.setdig d p v dot) s = .next t ∧
      slotShows t.matrix d.toNat p.toNat (patternOf s.cfg v) (decide (dot = 0x01#8)) :=
    ⟨_, exec_setdig_of_lt hdot d p v s, slotShows_setDigit s.cfg hd (Nat.lt_succ_of_le hp) v _ s.matrix⟩
  have hpat8 : patternOf s.cfg 8#8 = 0b1111111#7 := hfont8
  have hpat1 : patternOf s.cfg 1#8 = 0b0000110#7 := hfont1
  exact ⟨hpat8 ▸ shows 8#8, hpat1 ▸ shows 1#8⟩

/-! The command WRSTR -/

/-- One SETDIG per digit, in the slots from `slot` on. It needs no count of slots: SETDIG ignores a slot past the
eighth (R132). -/
def fillSlots (cfg : Config) (d : Nat) : Nat → List (Byte × Bool) → Matrix → Matrix
  | _, [], m => m
  | slot, (v, dot) :: digits, m => fillSlots cfg d (slot + 1) digits (setDigit cfg d slot v dot m)

theorem fillSlots_cons (cfg : Config) (d slot : Nat) (v : Byte) (dot : Bool) (digits : List (Byte × Bool)) (m : Matrix) :
    fillSlots cfg d slot ((v, dot) :: digits) m = fillSlots cfg d (slot + 1) digits (setDigit cfg d slot v dot m) := rfl

/-- Past the eighth slot, or with no such display, nothing is written (R137, R140). -/
theorem fillSlots_out_of_range (cfg : Config) {d slot : Nat} (h : 1 < d ∨ 7 < slot) (digits : List (Byte × Bool))
    (m : Matrix) : fillSlots cfg d slot digits m = m := by
  induction digits generalizing slot with
  | nil => rfl
  | cons digit digits ih =>
    obtain ⟨v, dot⟩ := digit
    rw [fillSlots_cons, setDigit_out_of_range cfg h, ih (h.imp_right Nat.lt_succ_of_lt)]

/-- The scan of WRSTR fills the slots with the digits of its text. -/
theorem writeText_eq_fillSlots (cfg : Config) (d slot : Nat) (text : List Byte) (m : Matrix) :
    writeText cfg d slot text m = fillSlots cfg d slot (digitsOf text) m := by
  induction text generalizing slot m with
  | nil => cases slot <;> rfl
  | cons c rest ih =>
    rcases Nat.lt_or_ge slot 8 with hfree | hfull
    · rw [writeText_cons _ _ _ _ _ _ hfree, digitsOf]
      split
      · rw [ih, fillSlots_cons]
      · rw [ih]
    · rw [writeText_full _ _ _ _ _ hfull, fillSlots_out_of_range cfg (.inr hfull)]

theorem writeString_eq_fillSlots (cfg : Config) (d : Nat) (text : List Byte) (m : Matrix) :
    writeString cfg d text m = fillSlots cfg d 0 (digitsOf text) (clearDisplay d m) :=
  writeText_eq_fillSlots cfg d 0 text (clearDisplay d m)

/-- The columns before the first slot, and those after the last digit, keep their bits. -/
theorem readBit_fillSlots_of_not_reached (cfg : Config) (d : Nat) {slot q : Nat} {digits : List (Byte × Bool)}
    (h : q < slot ∨ slot + digits.length ≤ q) (hq : q < 8) (m : Matrix) (r : Nat) :
    readBit (fillSlots cfg d slot digits m) r q = readBit m r q := by
  induction digits generalizing slot m with
  | nil => rfl
  | cons digit digits ih =>
    obtain ⟨v, dot⟩ := digit
    rw [List.length_cons] at h
    have hne : slot ≠ q := by omega
    rw [fillSlots_cons, ih (by omega), readBit_setDigit _ _ _ _ _ _ _ _ hq, if_neg fun hcol => hne hcol.2.2.2]

theorem readRow_fillSlots_other (cfg : Config) {d r : Nat} (hr : r / 8 ≠ d) (slot : Nat) (digits : List (Byte × Bool))
    (m : Matrix) : readRow (fillSlots cfg d slot digits m) r = readRow m r := by
  induction digits generalizing slot m with
  | nil => rfl
  | cons digit digits ih =>
    obtain ⟨v, dot⟩ := digit
    rw [fillSlots_cons, ih, readRow_setDigit_other _ _ _ _ _ _ _ hr]

/-- The `k`-th digit is shown in the `k`-th slot from the first: the later digits go to later slots. -/
theorem slotShows_fillSlots (cfg : Config) {d slot k : Nat} (hd : d ≤ 1) (hk : slot + k < 8)
    {digits : List (Byte × Bool)} {v : Byte} {dot : Bool} (h : digits[k]? = some (v, dot)) (m : Matrix) :
    slotShows (fillSlots cfg d slot digits m) d (slot + k) (patternOf cfg v) dot := by
  induction digits generalizing slot k m with
  | nil => cases h
  | cons digit digits ih =>
    obtain ⟨v', dot'⟩ := digit
    rw [fillSlots_cons]
    cases k with
    | zero =>
      cases h
      refine (slotShows_congr fun r => ?_).mpr (slotShows_setDigit cfg hd hk v dot m)
      exact readBit_fillSlots_of_not_reached cfg d (.inl (Nat.lt_succ_self slot)) hk _ r
    | succ k =>
      have hslot : slot + (k + 1) = slot + 1 + k := by omega
      rw [hslot] at hk ⊢
      exact ih hk h _

/-- Slot `p` after WRSTR shows the `p`-th digit of the text (R137, R138). -/
theorem slotShows_writeString_digit (cfg : Config) {d p : Nat} (hd : d ≤ 1) (hp : p < 8) {text : List Byte} {v : Byte}
    {dot : Bool} (h : (digitsOf text)[p]? = some (v, dot)) (m : Matrix) :
    slotShows (writeString cfg d text m) d p (patternOf cfg v) dot := by
  have hfill := slotShows_fillSlots cfg hd (slot := 0) (k := p) (by omega) h (clearDisplay d m)
  rwa [Nat.zero_add, ← writeString_eq_fillSlots] at hfill

/-- A slot past the last digit of the text is blank after WRSTR (R137, R139). -/
theorem slotShows_writeString_blank (cfg : Config) {d p : Nat} (hd : d ≤ 1) (hp : p < 8) {text : List Byte}
    (h : (digitsOf text)[p]? = none) (m : Matrix) : slotShows (writeString cfg d text m) d p 0#7 false := by
  have hlen : 0 + (digitsOf text).length ≤ p := by
    rw [Nat.zero_add]
    exact List.getElem?_eq_none_iff.mp h
  rw [writeString_eq_fillSlots]
  exact (slotShows_congr fun r => readBit_fillSlots_of_not_reached cfg d (.inr hlen) hp _ r).mpr
    (slotShows_clearDisplay hd p m)

theorem readRow_writeString_other (cfg : Config) {d r : Nat} (hr : r / 8 ≠ d) (text : List Byte) (m : Matrix) :
    readRow (writeString cfg d text m) r = readRow m r := by
  rw [writeString_eq_fillSlots, readRow_fillSlots_other cfg hr, readRow_clearDisplay, if_neg fun h => hr h.2]

theorem writeString_no_display (cfg : Config) {d : Nat} (h : 1 < d) (text : List Byte) (m : Matrix) :
    writeString cfg d text m = m := by
  rw [writeString_eq_fillSlots, fillSlots_out_of_range cfg (.inl h), clearDisplay_no_display h]

/-- Settles O33: the slots of a display that exists, its other rows, the displays that do not exist, the packets, and the
refusal of the opcode alone. -/
theorem wrstrShowsTheDigitsOfTheText : Obligations.WrstrShowsTheDigitsOfTheText := by
  refine ⟨fun d text s hd => ⟨writeString s.cfg d.toNat text s.matrix, fun p hp => ⟨fun v dot => ?digit, ?blank⟩,
      fun r _ hr => readRow_writeString_other s.cfg hr text s.matrix, exec_wrstr d text s⟩,
    fun d text s hd => ?noDisplay, fun d text => decodeInvertsEncode (.wrstr d text) rfl,
    refusedWith_of_not_formatFits (o := .wrstr) (args := []) rfl⟩
  case digit => exact fun h => slotShows_writeString_digit s.cfg hd hp h s.matrix
  case blank => exact fun h => slotShows_writeString_blank s.cfg hd hp h s.matrix
  case noDisplay => rw [exec_wrstr, writeString_no_display s.cfg hd]

end Sys2Proof.Machine

/-! SUPPORT. The bus unit (`43_bus.md`): the level's byte, the state each bus command leaves up to the environment, which
transactions a command and a step emit (R163), and that nothing of the block depends on the environment (R165). -/

namespace Sys2Proof.Machine

/-! The brightness command (R161) -/

theorem toNat_clampLevel (level : Byte) : (clampLevel level).toNat = min level.toNat 15 := by
  rw [clampLevel, BitVec.toNat_ofNat]
  omega

/-- The low four bits of 0xE0 are clear, so OR-ing a level into it adds the level. -/
theorem toNat_or_level (lv : BitVec 4) : (0xE0#8 ||| lv.setWidth 8).toNat = 0xE0 + lv.toNat := by
  have hwide : (lv.setWidth 8).toNat = lv.toNat := BitVec.toNat_setWidth_of_le (by decide)
  rw [BitVec.toNat_or, hwide]
  exact (Nat.two_pow_add_eq_or_of_lt lv.isLt 14).symm

theorem toNat_brightnessByte (level : Byte) :
    (0xE0#8 ||| (clampLevel level).setWidth 8).toNat = 0xE0 + min level.toNat 15 := by
  rw [toNat_or_level, toNat_clampLevel]

theorem brightnessCommand_eq (level : Byte) :
    brightnessCommand level = [BitVec.ofNat 8 (0xE0 + min level.toNat 15)] := by
  rw [brightnessCommand, ← toNat_brightnessByte, BitVec.ofNat_toNat, BitVec.setWidth_eq]

/-! The buffer write (R160) -/

theorem bufferWrite_length (m : Matrix) : (bufferWrite m).length = 17 := by
  rw [bufferWrite, List.length_cons, matrixBytes_length]

theorem getElem?_bufferWrite_succ (m : Matrix) {k : Nat} (hk : k < 16) :
    (bufferWrite m)[k + 1]? = some (readRow m k) := by
  rw [bufferWrite, List.getElem?_cons_succ, matrixBytes, List.getElem?_map, List.getElem?_range hk, Option.map_some]

/-! States that differ at most in the environment -/

/-- `u` is `s` with any other transmitter results to come and any other chip. -/
def sameBlock (s u : State) : Prop := ∃ rs c, u = { s with busResults := rs, chip := c }

theorem sameBlock_emit (o : Output) {s u : State} (h : sameBlock s u) : sameBlock (emit o s) (emit o u) := by
  obtain ⟨rs, c, rfl⟩ := h
  cases o with
  | busTx a bs => exact ⟨rs.tail, chipAfter rs.head? bs c, rfl⟩
  | pwmSet ch duty => exact ⟨rs, c, rfl⟩
  | response packet => exact ⟨rs, c, rfl⟩

theorem sameBlock_emitAll (os : List Output) {s u : State} (h : sameBlock s u) :
    sameBlock (emitAll os s) (emitAll os u) := by
  induction os generalizing s u with
  | nil => exact h
  | cons o os ih => exact ih (sameBlock_emit o h)

/-- Emitting appends to the outputs and moves the environment; the rest of the block stays. -/
theorem sameBlock_append_emitAll (os : List Output) (s : State) :
    sameBlock { s with outputs := s.outputs ++ os } (emitAll os s) := by
  induction os generalizing s with
  | nil => exact ⟨s.busResults, s.chip, by rw [emitAll_nil, List.append_nil]⟩
  | cons o os ih =>
    obtain ⟨rs, c, hall⟩ := ih (emit o s)
    refine ⟨rs, c, ?_⟩
    rw [emitAll_cons, hall, emit_outputs, List.append_assoc, List.singleton_append, emit_cfg, emit_cnt0, emit_cnt1,
      emit_matrix, emit_inputs]

/-! The state each bus command leaves (R160 to R162) -/

/-- A command that only emits leaves its actions and the OK response in the outputs, and else moves the environment. -/
theorem respondOk_emitAll (os : List Output) (s : State) :
    ∃ c rs, respondOk [] (emitAll os s) =
      { s with outputs := s.outputs ++ (os ++ [.response [0x00#8]]), chip := c, busResults := rs } := by
  obtain ⟨rs, c, hall⟩ := sameBlock_append_emitAll os s
  exact ⟨c, rs, by rw [hall, respondOk_eq, List.append_assoc]⟩

/-- Settles O35: the 17 bytes are `bufferWrite`'s; the one packet, and its refusal with operands. -/
theorem displaySendsTheMatrixVerbatim : Obligations.DisplaySendsTheMatrixVerbatim := by
  refine ⟨fun s => ?_, decodeInvertsEncode .display rfl, fun _ hargs => refusedWith_of_ne_nil (o := .display) rfl hargs⟩
  obtain ⟨c, rs, hdone⟩ := respondOk_emitAll (displayActions s) s
  exact ⟨bufferWrite s.matrix, c, rs, bufferWrite_length s.matrix, rfl,
    fun _ hk => getElem?_bufferWrite_succ s.matrix hk, congrArg Host.Outcome.next hdone⟩

/-- Settles O36: the byte's value by `toNat_brightnessByte`; the packets, and the refusal of every other length. -/
theorem setbrtSendsTheClampedLevel : Obligations.SetbrtSendsTheClampedLevel := by
  refine ⟨fun level s => ?_, fun level => decodeInvertsEncode (.setbrt level) rfl,
    fun _ hlen => refusedWith_of_length_ne_one (o := .setbrt) rfl hlen⟩
  obtain ⟨c, rs, hdone⟩ := respondOk_emitAll (setbrtActions level s) s
  exact ⟨_, c, rs, toNat_brightnessByte level, congrArg Host.Outcome.next hdone⟩

/-- Settles O37: the third transaction is the brightness command at level 15; the one packet, and its refusal with
operands. -/
theorem configSendsThreeTransactions : Obligations.ConfigSendsThreeTransactions := by
  refine ⟨fun s => ?_, decodeInvertsEncode .config rfl, fun _ hargs => refusedWith_of_ne_nil (o := .config) rfl hargs⟩
  obtain ⟨c, rs, hdone⟩ := respondOk_emitAll (configActions s) s
  exact ⟨c, rs, congrArg Host.Outcome.next hdone⟩

/-! Which transactions a command and a step emit (R163) -/

/-- The transactions the table of R163 gives the command `i` when the matrix is `m`. -/
def transactionOf (i : Instr) (m : Matrix) (bs : List Byte) : Prop :=
  (i = .config ∧ (bs = [0x21#8] ∨ bs = [0x81#8] ∨ bs = [0xEF#8])) ∨
  (∃ level : Byte, i = .setbrt level ∧ bs = [BitVec.ofNat 8 (0xE0 + min level.toNat 15)]) ∨
  (i = .display ∧ bs = 0x00#8 :: (List.range 16).map (readRow m))

theorem oneOfFourShapes_of_transactionOf {i : Instr} {m : Matrix} {bs : List Byte} (h : transactionOf i m bs) :
    oneOfFourShapes m bs := by
  obtain ⟨-, hosc | hon | hbright⟩ | ⟨level, -, hlevel⟩ | ⟨-, hrows⟩ := h
  · exact .inl hosc
  · exact .inr (.inl hon)
  · exact .inr (.inr (.inl ⟨15, by decide, hbright⟩))
  · exact .inr (.inr (.inl ⟨min level.toNat 15, by omega, hlevel⟩))
  · exact .inr (.inr (.inr hrows))

theorem transactionOf_of_busTx_mem {i : Instr} {s : State} {a : Nat} {bs : List Byte}
    (h : .busTx a bs ∈ commandActions i s) : a = s.cfg.busAddr ∧ transactionOf i s.matrix bs := by
  obtain rfl | ⟨level, rfl⟩ | rfl := busTx_mem_commandActions h
  · obtain ⟨rfl, rfl⟩ := Output.busTx.inj (List.mem_singleton.mp h)
    exact ⟨rfl, .inr (.inr ⟨rfl, rfl⟩)⟩
  · obtain ⟨rfl, rfl⟩ := Output.busTx.inj (List.mem_singleton.mp h)
    exact ⟨rfl, .inr (.inl ⟨level, rfl, brightnessCommand_eq level⟩)⟩
  · have hthree : .busTx a bs ∈ configActions s := h
    simp only [configActions, List.mem_cons, Output.busTx.injEq, List.not_mem_nil, or_false] at hthree
    obtain ⟨rfl, rfl⟩ | ⟨rfl, rfl⟩ | ⟨rfl, rfl⟩ := hthree
    · exact ⟨rfl, .inl ⟨rfl, .inl rfl⟩⟩
    · exact ⟨rfl, .inl ⟨rfl, .inr (.inl rfl)⟩⟩
    · exact ⟨rfl, .inl ⟨rfl, .inr (.inr rfl)⟩⟩

/-- A command appends outputs (R60), and every transaction among them is one of its own, to BUS_ADDR. -/
theorem exec_transactions {i : Instr} {s t : State} (h : exec i s = .next t) :
    ∃ new, t.outputs = s.outputs ++ new ∧
      ∀ a bs, .busTx a bs ∈ new → a = s.cfg.busAddr ∧ transactionOf i s.matrix bs := by
  obtain ⟨packet, hout⟩ := exec_outputs h
  refine ⟨commandActions i s ++ [.response packet], by rw [hout, List.append_assoc], fun a bs hmem => ?_⟩
  obtain hact | hresp := List.mem_append.mp hmem
  · exact transactionOf_of_busTx_mem hact
  · cases List.mem_singleton.mp hresp

/-- What a reset adds to the outputs: the first actions of the abandoned command, if there is one (R211). -/
theorem applyReset_transactions (a : Option Abandoned) (lost : List Fan) (s : State) :
    ∃ new, (applyReset a lost s).outputs = s.outputs ++ new ∧
      ∀ addr bs, .busTx addr bs ∈ new → addr = s.cfg.busAddr ∧ ∃ i, transactionOf i s.matrix bs := by
  have hout : (applyReset a lost s).outputs = (abandon a s).outputs := rfl
  obtain hnone | ⟨c, i, -, -, hsent⟩ := abandon_cases a s
  · exact ⟨[], by rw [hout, hnone, List.append_nil], fun _ _ hmem => absurd hmem List.not_mem_nil⟩
  · refine ⟨(commandActions i s).take c.sent, by rw [hout, hsent, emitAll_outputs], fun addr bs hmem => ?_⟩
    obtain ⟨haddr, htx⟩ := transactionOf_of_busTx_mem (List.mem_of_mem_take hmem)
    exact ⟨haddr, i, htx⟩

/-- Settles O10: a packet's transactions are its command's, a reset's are the abandoned command's, and each of them has
one of the four shapes; no other event transmits. -/
theorem onlyFourTransactionShapes : Obligations.OnlyFourTransactionShapes := by
  refine ⟨fun s t hstep => ?_, fun i s t hexec => ?_⟩
  · obtain ⟨-, rfl⟩ | ⟨f, rest, -, rfl⟩ | ⟨c, rest, i, -, -, hexec⟩ | ⟨c, rest, e, -, -, rfl⟩ |
      ⟨a, lost, rest, -, rfl⟩ := step_cases s t hstep
    · exact ⟨[], (List.append_nil _).symm, fun _ _ hmem => absurd hmem List.not_mem_nil⟩
    · exact ⟨[], by rw [pulse, setCnt_outputs, setInputs_outputs, List.append_nil],
        fun _ _ hmem => absurd hmem List.not_mem_nil⟩
    · obtain ⟨new, hout, hnew⟩ := exec_transactions hexec
      exact ⟨new, hout, fun a bs hmem => (hnew a bs hmem).imp_right oneOfFourShapes_of_transactionOf⟩
    · exact ⟨[.response [errorStatus e]], rfl, fun _ _ hmem => by cases List.mem_singleton.mp hmem⟩
    · obtain ⟨new, hout, hnew⟩ := applyReset_transactions a lost (setInputs rest s)
      refine ⟨new, hout, fun addr bs hmem => ?_⟩
      obtain ⟨haddr, i, htx⟩ := hnew addr bs hmem
      exact ⟨haddr, oneOfFourShapes_of_transactionOf htx⟩
  · obtain ⟨new, hout, hnew⟩ := exec_transactions hexec
    exact ⟨new, hout, fun a bs hmem => (hnew a bs hmem).2⟩

/-! The block does not look at the environment (R165) -/

theorem step_of_no_event {s : State} (h : s.inputs = []) : step s = .next s := by
  simp only [step, h]

theorem step_of_refused_packet {c : List Byte} {e : PacketError} {rest : List Event} {s : State}
    (h : s.inputs = .packet c :: rest) (hc : decode c = .error e) : step s = .next (takeError e (setInputs rest s)) := by
  simp only [step, h, hc]

theorem step_of_reset {a : Option Abandoned} {lost : List Fan} {rest : List Event} {s : State}
    (h : s.inputs = .reset a lost :: rest) : step s = .next (applyReset a lost (setInputs rest s)) := by
  simp only [step, h]

theorem sameBlock_setInputs (rest : List Event) {s u : State} (h : sameBlock s u) :
    sameBlock (setInputs rest s) (setInputs rest u) := by
  obtain ⟨rs, c, rfl⟩ := h
  exact ⟨rs, c, rfl⟩

theorem sameBlock_pulse (f : Fan) {s u : State} (h : sameBlock s u) : sameBlock (pulse f s) (pulse f u) := by
  obtain ⟨rs, c, rfl⟩ := h
  cases f <;> exact ⟨rs, c, rfl⟩

theorem sameBlock_commandActions (i : Instr) {s u : State} (h : sameBlock s u) :
    commandActions i u = commandActions i s := by
  obtain ⟨rs, c, rfl⟩ := h
  cases i <;> rfl

theorem sameBlock_abandon (a : Option Abandoned) {s u : State} (h : sameBlock s u) :
    sameBlock (abandon a s) (abandon a u) := by
  cases a with
  | none => exact h
  | some c =>
    cases hc : decode c.packet with
    | ok i =>
      simp only [abandon, hc, sameBlock_commandActions i h]
      exact sameBlock_emitAll _ h
    | error e =>
      simp only [abandon, hc]
      exact h

theorem sameBlock_applyReset (a : Option Abandoned) (lost : List Fan) {s u : State} (h : sameBlock s u) :
    sameBlock (applyReset a lost s) (applyReset a lost u) := by
  obtain ⟨rs, c, hu⟩ := sameBlock_abandon a h
  exact ⟨rs, c, by rw [applyReset, hu, applyReset]⟩

/-- A command does the same to the block whatever the environment: the bus commands by `sameBlock_emitAll`; every other
command reads neither the chip nor the results, and passes both on as they are. -/
theorem sameBlock_exec (i : Instr) {s u : State} (h : sameBlock s u) :
    ∃ t v, exec i s = .next t ∧ exec i u = .next v ∧ sameBlock t v := by
  have hbus (os : List Output) : sameBlock (respondOk [] (emitAll os s)) (respondOk [] (emitAll os u)) :=
    sameBlock_emit _ (sameBlock_emitAll os h)
  have herror : sameBlock (takeError .errOperand s) (takeError .errOperand u) := sameBlock_emit _ h
  obtain ⟨rs, c, rfl⟩ := h
  cases i with
  | rdrst x =>
    cases hx : fanOf x with
    | none => exact ⟨_, _, exec_rdrst_reserved hx _, exec_rdrst_reserved hx _, herror⟩
    | some f => exact ⟨_, _, exec_rdrst_of_fanOf hx _, exec_rdrst_of_fanOf hx _, rs, c, by cases f <;> rfl⟩
  | rpm x =>
    cases hx : fanOf x with
    | none => exact ⟨_, _, exec_rpm_reserved hx _, exec_rpm_reserved hx _, herror⟩
    | some f => exact ⟨_, _, exec_rpm_of_fanOf hx _, exec_rpm_of_fanOf hx _, rs, c, by cases f <;> rfl⟩
  | setdig d p v dot =>
    cases hdot : dotOf dot with
    | none => exact ⟨_, _, exec_setdig_reserved hdot d p v _, exec_setdig_reserved hdot d p v _, herror⟩
    | some lit => exact ⟨_, _, exec_setdig_of_dotOf hdot d p v _, exec_setdig_of_dotOf hdot d p v _, rs, c, rfl⟩
  | display => exact ⟨_, _, rfl, rfl, hbus (displayActions s)⟩
  | setbrt level => exact ⟨_, _, rfl, rfl, hbus (setbrtActions level s)⟩
  | config => exact ⟨_, _, rfl, rfl, hbus (configActions s)⟩
  | rpms | map | clrall | clrdsp | wrstr => exact ⟨_, _, rfl, rfl, rs, c, rfl⟩

/-- Noninterference, one step: from states that differ at most in the environment, to such states. -/
theorem sameBlock_step {s t u : State} (h : sameBlock s u) (hstep : step s = .next t) :
    ∃ v, step u = .next v ∧ sameBlock t v := by
  have hinputs : u.inputs = s.inputs := by obtain ⟨rs, c, rfl⟩ := h; rfl
  obtain ⟨hin, rfl⟩ | ⟨f, rest, hin, rfl⟩ | ⟨c, rest, i, hin, hc, hexec⟩ | ⟨c, rest, e, hin, hc, rfl⟩ |
    ⟨a, lost, rest, hin, rfl⟩ := step_cases s t hstep
  · exact ⟨u, step_of_no_event (hinputs.trans hin), h⟩
  · exact ⟨_, step_of_pulse (hinputs.trans hin), sameBlock_pulse f (sameBlock_setInputs rest h)⟩
  · obtain ⟨t', v, ht', hv, hsame⟩ := sameBlock_exec i (sameBlock_setInputs rest h)
    obtain rfl := Host.Outcome.next.inj (ht'.symm.trans hexec)
    exact ⟨v, (step_of_packet (hinputs.trans hin) hc).trans hv, hsame⟩
  · exact ⟨_, step_of_refused_packet (hinputs.trans hin) hc, sameBlock_emit _ (sameBlock_setInputs rest h)⟩
  · exact ⟨_, step_of_reset (hinputs.trans hin), sameBlock_applyReset a lost (sameBlock_setInputs rest h)⟩

/-- Settles O11: the first clause is `sameBlock_step`; the second holds because O35 to O37 say what each bus command sends
and answers from every state, hence whatever the results to come. -/
theorem transmitterResultIsIgnored : Obligations.TransmitterResultIsIgnored := by
  obtain ⟨hdisplay, -⟩ := displaySendsTheMatrixVerbatim
  obtain ⟨hsetbrt, -⟩ := setbrtSendsTheClampedLevel
  obtain ⟨hconfig, -⟩ := configSendsThreeTransactions
  refine ⟨fun s t rs c hstep => ?anyEnvironment, fun s rs => ⟨?display, fun level => ?setbrt, ?config⟩⟩
  case anyEnvironment =>
    obtain ⟨u, hu, rs', c', rfl⟩ := sameBlock_step ⟨rs, c, rfl⟩ hstep
    exact ⟨_, hu, rfl⟩
  case display =>
    obtain ⟨bs, c, rs', -, -, -, hexec⟩ := hdisplay { s with busResults := rs }
    exact ⟨_, bs, hexec, rfl⟩
  case setbrt =>
    obtain ⟨b, c, rs', -, hexec⟩ := hsetbrt level { s with busResults := rs }
    exact ⟨_, [b], hexec, rfl⟩
  case config =>
    obtain ⟨c, rs', hexec⟩ := hconfig { s with busResults := rs }
    exact ⟨_, _, _, _, hexec, rfl⟩

end Sys2Proof.Machine

/-! SUPPORT. The decoder's three errors (R76, R81, R188). What each error stands for is a predicate on the packet: a
reserved first byte, a length that fits no format of the opcode, the packet of an ill-formed instruction. The decoder's
answer under each is said once; a packet under none of them decodes, so each error is read back from its predicate. -/

namespace Sys2Proof

/-! The opcode map, format by format (R71, R73) -/

/-- The opcode bytes of the rows whose packets have the format `fmt`. -/
def opcodeBytes (fmt : Format) : List Byte := (allOpcodes.filter fun o => opcodeFormat o = fmt).map opcodeByte

theorem mem_allOpcodes (o : Opcode) : o ∈ allOpcodes := by
  cases o <;> decide

theorem mem_opcodeBytes_iff (op : Byte) (fmt : Format) :
    op ∈ opcodeBytes fmt ↔ ∃ o, opcodeFormat o = fmt ∧ opcodeByte o = op := by
  simp [opcodeBytes, mem_allOpcodes]

/-- The reserved opcodes are the bytes the opcode map does not list (R77). -/
theorem opcodeOf_eq_none_iff_not_mem (op : Byte) : opcodeOf op = none ↔ op ∉ allOpcodes.map opcodeByte := by
  rw [opcodeOf_eq_none]
  simp [mem_allOpcodes, eq_comm]

/-! What each error stands for -/

/-- The packet's first byte is a reserved opcode (R77). -/
def hasReservedOpcode (c : List Byte) : Prop := ∃ op args, c = op :: args ∧ opcodeOf op = none

/-- The packet is empty, or its opcode is defined and its length does not fit the opcode's format (R76). -/
def hasWrongLength (c : List Byte) : Prop :=
  c = [] ∨ ∃ op args, c = op :: args ∧ ∃ fmt, op ∈ opcodeBytes fmt ∧ formatFits fmt c.length = false

/-- The packet is that of an instruction with a reserved operand value (R78). -/
def hasReservedOperand (c : List Byte) : Prop := ∃ i, wellFormed i = false ∧ encode i = c

theorem decode_of_hasReservedOpcode {c : List Byte} (h : hasReservedOpcode c) : decode c = .error .errOpcode := by
  obtain ⟨op, args, rfl, hop⟩ := h
  simp only [decode_cons, hop]

theorem decode_of_hasWrongLength {c : List Byte} (h : hasWrongLength c) : decode c = .error .errLength := by
  obtain rfl | ⟨op, args, rfl, fmt, hop, hfit⟩ := h
  · rfl
  · obtain ⟨o, rfl, rfl⟩ := (mem_opcodeBytes_iff op fmt).mp hop
    have hnone : (assemble o args).isSome = false := (assemble_isSome o args).trans hfit
    exact decode_of_assemble_none (Option.isNone_iff_eq_none.mp (Option.isSome_eq_false_iff.mp hnone))

theorem decode_of_hasReservedOperand {c : List Byte} (h : hasReservedOperand c) : decode c = .error .errOperand := by
  obtain ⟨i, hwf, rfl⟩ := h
  obtain ⟨o, args, henc, hasm⟩ := exists_assemble_of_encode i
  rw [henc, decode_of_assemble hasm, hwf, if_neg Bool.false_ne_true]

/-- The checks in their order (R76): a packet that meets none of the three objections decodes. -/
theorem packet_cases (c : List Byte) :
    hasReservedOpcode c ∨ hasWrongLength c ∨ hasReservedOperand c ∨ ∃ i, decode c = .ok i := by
  cases c with
  | nil => exact .inr (.inl (.inl rfl))
  | cons op args =>
    cases hop : opcodeOf op with
    | none => exact .inl ⟨op, args, rfl, hop⟩
    | some o =>
      obtain rfl := (opcodeOf_eq_some op o).mp hop
      cases hasm : assemble o args with
      | none =>
        have hfit : formatFits (opcodeFormat o) (args.length + 1) = false := by
          rw [← assemble_isSome, hasm, Option.isSome_none]
        exact .inr (.inl (.inr ⟨_, args, rfl, _, (mem_opcodeBytes_iff _ _).mpr ⟨o, rfl, rfl⟩, hfit⟩))
      | some i =>
        have henc := encode_of_assemble hasm
        cases hwf : wellFormed i with
        | false => exact .inr (.inr (.inl ⟨i, hwf, henc⟩))
        | true => exact .inr (.inr (.inr ⟨i, (decode_eq_ok_iff _ i).mpr ⟨hwf, henc⟩⟩))

/-- What a refused packet met, by its error. -/
theorem decode_error_cases {c : List Byte} {e : PacketError} (h : decode c = .error e) :
    (e = .errOpcode ∧ hasReservedOpcode c) ∨ (e = .errLength ∧ hasWrongLength c) ∨
      (e = .errOperand ∧ hasReservedOperand c) := by
  obtain hop | hlen | hopd | ⟨i, hok⟩ := packet_cases c
  · exact .inl ⟨Except.error.inj (h.symm.trans (decode_of_hasReservedOpcode hop)), hop⟩
  · exact .inr (.inl ⟨Except.error.inj (h.symm.trans (decode_of_hasWrongLength hlen)), hlen⟩)
  · exact .inr (.inr ⟨Except.error.inj (h.symm.trans (decode_of_hasReservedOperand hopd)), hopd⟩)
  · exact nomatch h.symm.trans hok

theorem decode_eq_errOpcode_iff (c : List Byte) : decode c = .error .errOpcode ↔ hasReservedOpcode c :=
  ⟨fun h => by simpa using decode_error_cases h, decode_of_hasReservedOpcode⟩

theorem decode_eq_errLength_iff (c : List Byte) : decode c = .error .errLength ↔ hasWrongLength c :=
  ⟨fun h => by simpa using decode_error_cases h, decode_of_hasWrongLength⟩

theorem decode_eq_errOperand_iff (c : List Byte) : decode c = .error .errOperand ↔ hasReservedOperand c :=
  ⟨fun h => by simpa using decode_error_cases h, decode_of_hasReservedOperand⟩

/-! The three predicates, written out with the bytes and the lengths of the tables -/

theorem hasReservedOpcode_iff (c : List Byte) :
    hasReservedOpcode c ↔ ∃ op args, c = op :: args ∧ op ∉ allOpcodes.map opcodeByte := by
  simp only [hasReservedOpcode, opcodeOf_eq_none_iff_not_mem]

/-- The lengths that do not fit each format (R71, R79), at the opcodes of that format (R73). -/
theorem exists_format_misfit_iff (op : Byte) (n : Nat) :
    (∃ fmt, op ∈ opcodeBytes fmt ∧ formatFits fmt n = false) ↔
      (op ∈ [0x12#8, 0x30#8, 0x34#8, 0x36#8] ∧ n ≠ 1) ∨ (op ∈ [0x10#8, 0x11#8, 0x31#8, 0x35#8] ∧ n ≠ 2) ∨
        (op = 0x20#8 ∧ n ≠ 3) ∨ (op = 0x32#8 ∧ n ≠ 5) ∨ (op = 0x33#8 ∧ n < 2) := by
  constructor
  · rintro ⟨fmt, hop, hfit⟩
    cases fmt with
    | f0 => exact .inl ⟨hop, of_decide_eq_false hfit⟩
    | f1 => exact .inr (.inl ⟨hop, of_decide_eq_false hfit⟩)
    | f2 => exact .inr (.inr (.inl ⟨List.mem_singleton.mp hop, of_decide_eq_false hfit⟩))
    | f4 => exact .inr (.inr (.inr (.inl ⟨List.mem_singleton.mp hop, of_decide_eq_false hfit⟩)))
    | fs => exact .inr (.inr (.inr (.inr ⟨List.mem_singleton.mp hop, Nat.lt_of_not_le (of_decide_eq_false hfit)⟩)))
  · rintro (⟨hop, hn⟩ | ⟨hop, hn⟩ | ⟨hop, hn⟩ | ⟨hop, hn⟩ | ⟨hop, hn⟩)
    · exact ⟨.f0, hop, decide_eq_false hn⟩
    · exact ⟨.f1, hop, decide_eq_false hn⟩
    · exact ⟨.f2, List.mem_singleton.mpr hop, decide_eq_false hn⟩
    · exact ⟨.f4, List.mem_singleton.mpr hop, decide_eq_false hn⟩
    · exact ⟨.fs, List.mem_singleton.mpr hop, decide_eq_false (Nat.not_le_of_lt hn)⟩

/-- Only a fan and a dot operand have reserved values (R75, R78). -/
theorem hasReservedOperand_iff (c : List Byte) :
    hasReservedOperand c ↔ (∃ op f, c = [op, f] ∧ op ∈ [0x10#8, 0x11#8] ∧ 2 ≤ f.toNat) ∨
      ∃ d p v dot, c = [0x32#8, d, p, v, dot] ∧ 2 ≤ dot.toNat := by
  constructor
  · rintro ⟨i, hwf, rfl⟩
    cases i with
    | rdrst f => exact .inl ⟨0x10#8, f, rfl, by decide, Nat.le_of_not_lt (of_decide_eq_false hwf)⟩
    | rpm f => exact .inl ⟨0x11#8, f, rfl, by decide, Nat.le_of_not_lt (of_decide_eq_false hwf)⟩
    | setdig d p v dot => exact .inr ⟨d, p, v, dot, rfl, Nat.le_of_not_lt (of_decide_eq_false hwf)⟩
    | rpms | map | clrall | clrdsp | wrstr | display | setbrt | config => cases hwf
  · rintro (⟨op, f, rfl, hop, hf⟩ | ⟨d, p, v, dot, rfl, hdot⟩)
    · obtain rfl | rfl := List.mem_pair.mp hop
      · exact ⟨.rdrst f, legalFan_of_reserved hf, rfl⟩
      · exact ⟨.rpm f, legalFan_of_reserved hf, rfl⟩
    · exact ⟨.setdig d p v dot, decide_eq_false (Nat.not_lt_of_le hdot), rfl⟩

end Sys2Proof

namespace Sys2Proof.Machine

/-- Settles O14: each error is its predicate on the packet, written out from the tables; a refused packet is answered by
its error's status alone, and an accepted one is that of a well-formed command, which answers OK. -/
theorem decoderRefusesExactly : Obligations.DecoderRefusesExactly := by
  refine ⟨fun c => ?opcode, fun c => ?length, fun c => ?operand, fun c => ?refused, fun c i s hok => ?accepted⟩
  case opcode => exact (decode_eq_errOpcode_iff c).trans (hasReservedOpcode_iff c)
  case length => simp only [decode_eq_errLength_iff, hasWrongLength, exists_format_misfit_iff]
  case operand => exact (decode_eq_errOperand_iff c).trans (hasReservedOperand_iff c)
  case refused =>
    exact ⟨refusedWith_of_decode_error, refusedWith_of_decode_error, refusedWith_of_decode_error⟩
  case accepted =>
    obtain ⟨t, hexec, hout⟩ := exec_outputs_of_wellFormed (decode_ok_wellFormed c i hok) s
    exact ⟨t, commandActions i s, okPayload i s, hexec, hout, fun o ho => isResponse_of_mem_commandActions ho⟩

end Sys2Proof.Machine

/-! SUPPORT. One step as a whole: it always completes (R221), a packet gets exactly one response (R43, R81), and a reset
clears the block and leaves an abandoned command without a response (R211). -/

namespace Sys2Proof.Machine

/-! Every command and every event completes -/

/-- No operand and no state stops a command (R221). -/
theorem exists_exec_eq_next (i : Instr) (s : State) : ∃ t, exec i s = .next t := by
  obtain ⟨m, packet, hdone, -⟩ := exec_eq_withEffect i s
  exact ⟨_, hdone⟩

theorem exists_step_eq_next (s : State) : ∃ t, step s = .next t := by
  cases hin : s.inputs with
  | nil => exact ⟨_, step_of_no_event hin⟩
  | cons e rest =>
    cases e with
    | pulse f => exact ⟨_, step_of_pulse hin⟩
    | packet c =>
      cases hc : decode c with
      | ok i =>
        obtain ⟨t, hexec⟩ := exists_exec_eq_next i (setInputs rest s)
        exact ⟨t, (step_of_packet hin hc).trans hexec⟩
      | error e => exact ⟨_, step_of_refused_packet hin hc⟩
    | reset a lost => exact ⟨_, step_of_reset hin⟩

/-- Settles O4: every event completes, and a step that completes uses up the head of the schedule (`step_inputs`). -/
theorem everyStepCompletes : Obligations.EveryStepCompletes := by
  intro s
  obtain ⟨t, hstep⟩ := exists_step_eq_next s
  exact ⟨t, hstep, step_inputs hstep⟩

/-! A packet and its response -/

/-- Settles O5: nothing stands between the decoder and `exec`. -/
theorem stepRunsDecodedInstruction : Obligations.StepRunsDecodedInstruction :=
  fun _ _ _ _ hc => step_of_packet rfl hc

theorem errorStatus_mem (e : PacketError) : errorStatus e ∈ [0x00#8, 0x01#8, 0x02#8, 0x03#8] := by
  cases e <;> decide

/-- Settles O6, by what the decoder says: a packet that decodes runs a well-formed command, which emits its actions and
then answers OK; a refused one is answered by its error's status alone. -/
theorem everyPacketGetsOneResponse : Obligations.EveryPacketGetsOneResponse := by
  intro s c rest
  cases hc : decode c with
  | ok i =>
    obtain ⟨t, hexec, hout⟩ := exec_outputs_of_wellFormed (decode_ok_wellFormed c i hc) (setInputs rest s)
    exact ⟨t, commandActions i (setInputs rest s), 0x00#8, okPayload i (setInputs rest s),
      (stepRunsDecodedInstruction s c rest i hc).trans hexec, hout, fun o ho => isResponse_of_mem_commandActions ho,
      List.mem_cons_self⟩
  | error e =>
    exact ⟨_, [], errorStatus e, [], refusedWith_of_decode_error hc s rest, by rw [List.append_nil],
      fun o ho => absurd ho List.not_mem_nil, errorStatus_mem e⟩

/-! Reset -/

/-- Settles O2: the standard parameters are legal, and a counter at 0 is below 2^CNTW. -/
theorem resetStateIsWellFormed : Obligations.ResetStateIsWellFormed :=
  ⟨⟨by decide, rfl, rfl⟩, Nat.two_pow_pos _, Nat.two_pow_pos _⟩

/-- Settles O41: with no command in progress there is nothing to abandon. -/
theorem resetEventClearsTheBlock : Obligations.ResetEventClearsTheBlock :=
  fun s lost rest => step_of_reset (setInputs_inputs (.reset none lost :: rest) s)

/-- What a reset leaves of the outputs when it abandons the command `i` after `k` of its actions (R211). -/
theorem applyReset_outputs_of_decode {c : List Byte} {i : Instr} (hc : decode c = .ok i) (k : Nat) (lost : List Fan)
    (s : State) : (applyReset (some ⟨c, k⟩) lost s).outputs = s.outputs ++ (commandActions i s).take k := by
  simp only [applyReset, abandon, hc, emitAll_outputs]

/-- Settles O42: the reset emits the first `k` of the actions the whole command would have emitted before its response,
and none of those actions is a response. -/
theorem resetAbandonsWithoutResponse : Obligations.ResetAbandonsWithoutResponse := by
  intro s i c k lost rest hc
  obtain ⟨u, hexec, hout⟩ := exec_outputs_of_wellFormed (decode_ok_wellFormed c i hc) (setInputs rest s)
  have hstep : step (setInputs (.reset (some ⟨c, k⟩) lost :: rest) s) =
      .next (applyReset (some ⟨c, k⟩) lost (setInputs rest s)) := step_of_reset rfl
  exact ⟨_, u, commandActions i (setInputs rest s), _, hstep, hexec, hout, applyReset_outputs_of_decode hc k lost _,
    fun o ho => isResponse_of_mem_commandActions (List.mem_of_mem_take ho), rfl, rfl,
    fun r _ => readRow_zeroMatrix r, applyReset_cfg _ lost _, step_inputs hstep⟩

end Sys2Proof.Machine

/-! SUPPORT. A pulse writes one counter and reads nothing else of the state but CNTW, so it can be moved past every
operation that leaves its counter alone (R189); and the terms with a reserved operand, which no packet decodes to. -/

namespace Sys2Proof.Machine

/-! A pulse moved past an operation on the state -/

theorem pulse_emit (f : Fan) (o : Output) (s : State) : pulse f (emit o s) = emit o (pulse f s) := by
  cases f <;> cases o <;> rfl

theorem pulse_emitAll (f : Fan) (os : List Output) (s : State) :
    pulse f (emitAll os s) = emitAll os (pulse f s) := by
  induction os generalizing s with
  | nil => rfl
  | cons o os ih => rw [emitAll_cons, ih, pulse_emit, emitAll_cons]

theorem pulse_respondOk (f : Fan) (payload : List Byte) (s : State) :
    pulse f (respondOk payload s) = respondOk payload (pulse f s) := pulse_emit f _ s

theorem pulse_setMatrix (f : Fan) (m : Matrix) (s : State) : pulse f (setMatrix m s) = setMatrix m (pulse f s) := by
  cases f <;> rfl

theorem pulse_setCnt_of_ne {f g : Fan} (h : g ≠ f) (v : Nat) (s : State) :
    pulse f (setCnt g v s) = setCnt g v (pulse f s) := by
  cases f with
  | front =>
    cases g with
    | front => exact absurd rfl h
    | rear => rfl
  | rear =>
    cases g with
    | front => rfl
    | rear => exact absurd rfl h

/-- What a command sends depends on the parameters and the matrix, not on the counters. -/
theorem commandActions_pulse (f : Fan) (i : Instr) (s : State) : commandActions i (pulse f s) = commandActions i s := by
  cases f <;> cases i <;> rfl

theorem pulse_matrix (f : Fan) (s : State) : (pulse f s).matrix = s.matrix := setCnt_matrix f _ s

/-! A pulse moved past a command -/

/-- A command whose result is `F` of the state lets a pulse pass when `F` does. -/
theorem exec_pulse_of_eq {f : Fan} {i : Instr} {F : State → State} (hF : ∀ s, exec i s = .next (F s)) {s t : State}
    (hpass : F (pulse f s) = pulse f (F s)) (h : exec i s = .next t) : exec i (pulse f s) = .next (pulse f t) := by
  obtain rfl := Host.Outcome.next.inj ((hF s).symm.trans h)
  rw [hF, hpass]

/-- A fan operand that does not select CNT[f] is reserved or selects the other counter. -/
theorem fanOf_eq_none_or_other {f : Fan} {x : Byte} (h : (fanOf x == some f) = false) :
    fanOf x = none ∨ ∃ g, fanOf x = some g ∧ g ≠ f := by
  cases hx : fanOf x with
  | none => exact .inl rfl
  | some g =>
    refine .inr ⟨g, rfl, fun hg => ?_⟩
    rw [hx, hg, beq_self_eq_true] at h
    cases h

theorem exec_pulse_of_takeError {f : Fan} {i : Instr} {e : PacketError} (hi : ∀ s, exec i s = .next (takeError e s))
    {s t : State} (h : exec i s = .next t) : exec i (pulse f s) = .next (pulse f t) :=
  exec_pulse_of_eq hi (pulse_emit f _ s).symm h

/-- A command that exchanges the other counter, with a payload made from the parameters and the count. -/
theorem exec_pulse_of_exchange {f g : Fan} (hg : g ≠ f) {i : Instr} (payload : Config → Nat → List Byte)
    (hi : ∀ s, exec i s = .next (respondOk (payload s.cfg (getCnt g s)) (setCnt g 0 s))) {s t : State}
    (h : exec i s = .next t) : exec i (pulse f s) = .next (pulse f t) := by
  refine exec_pulse_of_eq hi ?_ h
  rw [pulse_cfg, getCnt_pulse, if_neg hg.symm, pulse_respondOk, pulse_setCnt_of_ne hg]

/-- A matrix command, with a new matrix made from the parameters and the old one. -/
theorem exec_pulse_of_setMatrix {f : Fan} {i : Instr} (change : Config → Matrix → Matrix)
    (hi : ∀ s, exec i s = .next (respondOk [] (setMatrix (change s.cfg s.matrix) s))) {s t : State}
    (h : exec i s = .next t) : exec i (pulse f s) = .next (pulse f t) := by
  refine exec_pulse_of_eq hi ?_ h
  rw [pulse_cfg, pulse_matrix, pulse_respondOk, pulse_setMatrix]

/-- A command that only emits, with a payload made from the parameters. -/
theorem exec_pulse_of_emitAll {f : Fan} {i : Instr} (payload : Config → List Byte)
    (hi : ∀ s, exec i s = .next (respondOk (payload s.cfg) (emitAll (commandActions i s) s))) {s t : State}
    (h : exec i s = .next t) : exec i (pulse f s) = .next (pulse f t) := by
  refine exec_pulse_of_eq hi ?_ h
  rw [pulse_cfg, commandActions_pulse, pulse_respondOk, pulse_emitAll]

/-- Settles O20, command by command: one that exchanges a counter exchanges the other one or has a reserved operand; the
others read the parameters and the matrix only. -/
theorem pulseCommutesWithOtherCommands : Obligations.PulseCommutesWithOtherCommands := by
  intro f i s t hother h
  cases i with
  | rdrst x =>
    obtain hx | ⟨g, hx, hg⟩ := fanOf_eq_none_or_other hother
    · exact exec_pulse_of_takeError (exec_rdrst_reserved hx) h
    · exact exec_pulse_of_exchange hg (fun cfg n => beBytes cfg.cntb n) (exec_rdrst_of_fanOf hx) h
  | rpm x =>
    obtain hx | ⟨g, hx, hg⟩ := fanOf_eq_none_or_other hother
    · exact exec_pulse_of_takeError (exec_rpm_reserved hx) h
    · exact exec_pulse_of_exchange hg (fun cfg n => beBytes cfg.rpmb (scale n)) (exec_rpm_of_fanOf hx) h
  | rpms => cases hother
  | map raw => exact exec_pulse_of_emitAll (fun cfg => beBytes 4 (curve cfg.period raw).toNat) (fun _ => rfl) h
  | clrall => exact exec_pulse_of_setMatrix (fun _ m => clearAll m) (fun _ => rfl) h
  | clrdsp d => exact exec_pulse_of_setMatrix (fun _ m => clearDisplay d.toNat m) (fun _ => rfl) h
  | setdig d p v dot =>
    cases hdot : dotOf dot with
    | none => exact exec_pulse_of_takeError (exec_setdig_reserved hdot d p v) h
    | some lit =>
      exact exec_pulse_of_setMatrix (fun cfg m => setDigit cfg d.toNat p.toNat v lit m)
        (exec_setdig_of_dotOf hdot d p v) h
  | wrstr d text => exact exec_pulse_of_setMatrix (fun cfg m => writeString cfg d.toNat text m) (fun _ => rfl) h
  | display | setbrt | config => exact exec_pulse_of_emitAll (fun _ => []) (fun _ => rfl) h

/-! Terms with a reserved operand -/

/-- Settles O25: a reserved operand selects no counter and is no truth value, so `exec` answers the error. -/
theorem reservedOperandTermsAnswerErrOperand : Obligations.ReservedOperandTermsAnswerErrOperand :=
  ⟨fun f s hf => ⟨exec_rdrst_reserved (fanOf_eq_none f hf) s, exec_rpm_reserved (fanOf_eq_none f hf) s⟩,
    fun d p v dot s hdot => exec_setdig_reserved (dotOf_eq_none dot hdot) d p v s⟩

end Sys2Proof.Machine

/-! SUPPORT. Two writes to the matrix (R136, R141). Each write is known by its net effect: SETDIG by the bits of its
column, WRSTR by the rows of its display, which depend on the text alone; rows a write does not name pass through it. -/

namespace Sys2Proof.Machine

/-! SETDIG twice -/

/-- The later of two writes to one slot decides every bit of the slot's column; neither writes another bit (R136). -/
theorem setDigit_setDigit_same (cfg : Config) (d p : Nat) (v v' : Byte) (dot dot' : Bool) (m : Matrix) :
    setDigit cfg d p v dot (setDigit cfg d p v' dot' m) = setDigit cfg d p v dot m := by
  refine matrix_ext _ _ fun r q _ hq => ?_
  simp only [readBit_setDigit _ _ _ _ _ _ _ _ hq]
  by_cases hcol : d ≤ 1 ∧ p ≤ 7 ∧ r / 8 = d ∧ p = q
  · rw [if_pos hcol, if_pos hcol]
  · simp only [if_neg hcol]

/-- No bit is in the columns of two different slots, so each bit is written by one of the two writes at most (R136). -/
theorem setDigit_comm (cfg : Config) {d p d' p' : Nat} (hne : (d, p) ≠ (d', p')) (v v' : Byte) (dot dot' : Bool)
    (m : Matrix) :
    setDigit cfg d p v dot (setDigit cfg d' p' v' dot' m) = setDigit cfg d' p' v' dot' (setDigit cfg d p v dot m) := by
  refine matrix_ext _ _ fun r q _ hq => ?_
  simp only [readBit_setDigit _ _ _ _ _ _ _ _ hq]
  by_cases hcol : d ≤ 1 ∧ p ≤ 7 ∧ r / 8 = d ∧ p = q
  · have hcol' : ¬ (d' ≤ 1 ∧ p' ≤ 7 ∧ r / 8 = d' ∧ p' = q) := by
      rintro ⟨-, -, hd', hp'⟩
      obtain ⟨-, -, hd, hp⟩ := hcol
      exact hne (Prod.ext (hd.symm.trans hd') (hp.trans hp'.symm))
    simp only [if_neg hcol', if_pos hcol]
  · simp only [if_neg hcol]

/-- Settles O32: `setDigit_setDigit_same` for one slot, `setDigit_comm` for two. -/
theorem setdigOverwritesAndCommutes : Obligations.SetdigOverwritesAndCommutes :=
  ⟨setDigit_setDigit_same, fun cfg _ _ _ _ v v' dot dot' m hne => setDigit_comm cfg hne v v' dot dot' m⟩

/-! The rows of WRSTR -/

/-- What SETDIG leaves in a row depends on that row alone. -/
theorem readRow_setDigit_congr (cfg : Config) (d p : Nat) (v : Byte) (dot : Bool) {m m' : Matrix} {r : Nat}
    (h : readRow m r = readRow m' r) : readRow (setDigit cfg d p v dot m) r = readRow (setDigit cfg d p v dot m') r := by
  refine BitVec.eq_of_getLsbD_eq fun q hq => ?_
  have hbit : readBit m r q = readBit m' r q := by rw [readBit, h, readBit]
  change readBit _ r q = readBit _ r q
  rw [readBit_setDigit _ _ _ _ _ _ _ _ hq, readBit_setDigit _ _ _ _ _ _ _ _ hq, hbit]

theorem readRow_fillSlots_congr (cfg : Config) (d slot : Nat) (digits : List (Byte × Bool)) {m m' : Matrix} {r : Nat}
    (h : readRow m r = readRow m' r) :
    readRow (fillSlots cfg d slot digits m) r = readRow (fillSlots cfg d slot digits m') r := by
  induction digits generalizing slot m m' with
  | nil => exact h
  | cons digit digits ih =>
    obtain ⟨v, dot⟩ := digit
    rw [fillSlots_cons, fillSlots_cons]
    exact ih (slot + 1) (readRow_setDigit_congr cfg d slot v dot h)

/-- What WRSTR leaves in a row depends on that row after the clear alone. -/
theorem readRow_writeString_of_clearDisplay (cfg : Config) (d : Nat) (text : List Byte) {m m' : Matrix} {r : Nat}
    (h : readRow (clearDisplay d m) r = readRow (clearDisplay d m') r) :
    readRow (writeString cfg d text m) r = readRow (writeString cfg d text m') r := by
  rw [writeString_eq_fillSlots, writeString_eq_fillSlots]
  exact readRow_fillSlots_congr cfg d 0 (digitsOf text) h

theorem readRow_writeString_congr (cfg : Config) (d : Nat) (text : List Byte) {m m' : Matrix} {r : Nat}
    (h : readRow m r = readRow m' r) : readRow (writeString cfg d text m) r = readRow (writeString cfg d text m') r :=
  readRow_writeString_of_clearDisplay cfg d text (by rw [readRow_clearDisplay, readRow_clearDisplay, h])

/-- In its own rows, which it clears first, WRSTR depends on the text alone (R141). -/
theorem readRow_writeString_own (cfg : Config) {d r : Nat} (hd : d ≤ 1) (hr : r / 8 = d) (text : List Byte)
    (m m' : Matrix) : readRow (writeString cfg d text m) r = readRow (writeString cfg d text m') r :=
  readRow_writeString_of_clearDisplay cfg d text
    (by rw [readRow_clearDisplay, if_pos ⟨hd, hr⟩, readRow_clearDisplay, if_pos ⟨hd, hr⟩])

/-! WRSTR twice -/

theorem writeString_writeString_same (cfg : Config) (d : Nat) (text : List Byte) (m : Matrix) :
    writeString cfg d text (writeString cfg d text m) = writeString cfg d text m := by
  refine matrix_ext_rows _ _ fun r hr16 => ?_
  by_cases hr : r / 8 = d
  · exact readRow_writeString_own cfg (by omega) hr text _ m
  · exact readRow_writeString_other cfg hr text _

/-- A row is outside one of two different displays, and the write to that display passes it through. -/
theorem writeString_comm (cfg : Config) {d d' : Nat} (hne : d ≠ d') (text text' : List Byte) (m : Matrix) :
    writeString cfg d text (writeString cfg d' text' m) = writeString cfg d' text' (writeString cfg d text m) := by
  refine matrix_ext_rows _ _ fun r _ => ?_
  by_cases hr : r / 8 = d
  · have hr' : r / 8 ≠ d' := fun hd' => hne (hr.symm.trans hd')
    rw [readRow_writeString_other cfg hr']
    exact readRow_writeString_congr cfg d text (readRow_writeString_other cfg hr' text' m)
  · rw [readRow_writeString_other cfg hr]
    exact (readRow_writeString_congr cfg d' text' (readRow_writeString_other cfg hr text m)).symm

theorem writeString_nil (cfg : Config) (d : Nat) (m : Matrix) : writeString cfg d [] m = clearDisplay d m :=
  writeString_eq_fillSlots cfg d [] m

/-- Settles O34: its own rows, the same write again, a write to another display, and the empty text. -/
theorem wrstrDependsOnlyOnItsText : Obligations.WrstrDependsOnlyOnItsText :=
  ⟨fun cfg _ text m m' _ hd hr => readRow_writeString_own cfg hd hr text m m', writeString_writeString_same,
    fun cfg _ _ text text' m hne => writeString_comm cfg hne text text' m, writeString_nil⟩

end Sys2Proof.Machine

/-! SUPPORT. The environment's side of the bus commands: the reference chip on the four transactions (R196), which
transactions reach it (log entries 12 and 13), and what it shows after CONFIG and DISPLAY. -/

namespace Sys2Proof.Machine

/-! The chip on each transaction (R196) -/

theorem chipRx_oscillatorEnable (c : Chip) : chipRx [0x21#8] c = { c with osc := true } := if_pos rfl

theorem chipRx_displayEnable (c : Chip) : chipRx [0x81#8] c = { c with on := true } := rfl

/-- A single byte with the high nibble E sets the brightness: it is neither of the enable commands. -/
theorem chipRx_of_highNibble {op : Byte} (h : op.extractLsb' 4 4 = 0xE#4) (c : Chip) :
    chipRx [op] c = { c with bright := op.extractLsb' 0 4 } := by
  have hosc : [op] ≠ [0x21#8] := by
    rintro ⟨⟩
    exact absurd h (by decide)
  have hon : [op] ≠ [0x81#8] := by
    rintro ⟨⟩
    exact absurd h (by decide)
  rw [chipRx, if_neg hosc, if_neg hon]
  exact if_pos ⟨rfl, h⟩

theorem chipRx_brightness (c : Chip) (lv : BitVec 4) : chipRx [0xE#4 ++ lv] c = { c with bright := lv } := by
  rw [chipRx_of_highNibble BitVec.extractLsb'_append_eq_left, BitVec.extractLsb'_append_eq_right]

/-- The sixteen bytes after 0x00 are the RAM's, in order. -/
theorem chipRx_bufferWrite (c : Chip) (rows : Vector Byte 16) :
    chipRx (0x00#8 :: rows.toList) c = { c with ram := rows } := by
  have hlen : rows.toList.length = 16 := rows.length_toList
  have hram : Vector.ofFn (fun k : Fin 16 => rows.toList.getD k.val 0x00#8) = rows := by
    refine Vector.ext fun k _ => ?_
    simp
  rw [chipRx, if_neg (by simp), if_neg (by simp), if_neg (by simp), if_pos ⟨rfl, hlen⟩, hram]

/-- Settles O39: the chip's four arms. -/
theorem chipFollowsItsReferenceModel : Obligations.ChipFollowsItsReferenceModel :=
  ⟨chipRx_oscillatorEnable, chipRx_displayEnable, chipRx_brightness, chipRx_bufferWrite⟩

/-! Which transactions reach the chip -/

/-- Settles O38: each bus command is its transactions, and `emit` hands each to the chip with the next result. -/
theorem busTransactionsReachTheChip : Obligations.BusTransactionsReachTheChip := by
  refine ⟨fun s => ⟨_, rfl, rfl, rfl⟩, fun level s => ⟨_, rfl, rfl, ?level⟩, fun s => ⟨_, rfl, rfl, rfl⟩,
    fun bs c left => ⟨rfl, rfl, rfl⟩⟩
  case level =>
    rw [← brightnessCommand_eq]
    rfl

/-! What the chip shows -/

/-- With no failed result to come, the transaction is delivered. -/
theorem chipAfter_head?_of_all_ok {rs : List BusResult} (h : ∀ r ∈ rs, r = .ok) (bs : List Byte) (c : Chip) :
    chipAfter rs.head? bs c = chipRx bs c := by
  cases rs with
  | nil => rfl
  | cons r rs =>
    obtain rfl := h r List.mem_cons_self
    rfl

theorem all_ok_tail {rs : List BusResult} (h : ∀ r ∈ rs, r = .ok) : ∀ r ∈ rs.tail, r = .ok :=
  fun r hr => h r (List.mem_of_mem_tail hr)

theorem matrixBytes_eq_toList (m : Matrix) : matrixBytes m = m.toList := by
  refine List.ext_getElem (by simp) fun k hk hk' => ?_
  have hk16 : k < 16 := by simpa using hk
  simp [matrixBytes, readRow, hk16]

/-- A chip that runs, is on and holds the matrix shows it (R196). -/
theorem litSegment_of_running {c : Chip} (hosc : c.osc = true) (hon : c.on = true) (d k p : Nat) :
    litSegment c d k p = readBit c.ram (8 * d + k) p := by
  simp only [litSegment, hosc, hon, Bool.true_and, readBit, readRow]

/-- CONFIG with every transaction delivered leaves the chip running, on, and at brightness 15. -/
theorem exec_config_chip {s : State} (h : ∀ r ∈ s.busResults, r = .ok) :
    ∃ t, exec .config s = .next t ∧ (∀ r ∈ t.busResults, r = .ok) ∧ t.matrix = s.matrix ∧
      t.chip = { s.chip with osc := true, on := true, bright := 15#4 } := by
  obtain ⟨-, -, hconfig, -⟩ := busTransactionsReachTheChip
  obtain ⟨t, hexec, hres, hchip⟩ := hconfig s
  refine ⟨t, hexec, hres ▸ all_ok_tail (all_ok_tail (all_ok_tail h)), by simpa using exec_matrix hexec, ?_⟩
  rw [hchip, chipAfter_head?_of_all_ok h, chipAfter_head?_of_all_ok (all_ok_tail h),
    chipAfter_head?_of_all_ok (all_ok_tail (all_ok_tail h)), chipRx_oscillatorEnable, chipRx_displayEnable]
  exact chipRx_brightness _ 15#4

/-- DISPLAY with its transaction delivered copies the matrix to the chip's RAM. -/
theorem exec_display_chip {s : State} (h : ∀ r ∈ s.busResults, r = .ok) :
    ∃ t, exec .display s = .next t ∧ t.chip = { s.chip with ram := s.matrix } := by
  obtain ⟨hdisplay, -⟩ := busTransactionsReachTheChip
  obtain ⟨t, hexec, -, hchip⟩ := hdisplay s
  refine ⟨t, hexec, ?_⟩
  rw [hchip, chipAfter_head?_of_all_ok h, ← chipRx_bufferWrite, ← matrixBytes_eq_toList, matrixBytes]

/-- Settles O40: CONFIG starts the chip and leaves the matrix, DISPLAY copies the matrix into it. -/
theorem configThenDisplayShowsTheMatrix : Obligations.ConfigThenDisplayShowsTheMatrix := by
  intro s hok
  obtain ⟨t, hconfig, hok', hmatrix, hchip⟩ := exec_config_chip hok
  obtain ⟨u, hdisplay, hchip'⟩ := exec_display_chip hok'
  rw [hchip, hmatrix] at hchip'
  refine ⟨t, u, hconfig, hdisplay, by rw [hchip'], fun d k p _ _ _ => ?_⟩
  rw [hchip', litSegment_of_running rfl rfl]

end Sys2Proof.Machine
